-- ==== Sys2Proof/Word.lean ====
section
/-! DEFINITION. The word types of the block (00_scope.md R10): bytes, 16-bit registers, 24-bit guest
addresses, 16-bit SSA handles and 64-bit IR nodes. Only names; the bit-field helpers are in
Sys2Proof/Machine/Bits.lean. -/

namespace Sys2Proof

/-- A byte of guest memory, an accumulator half, or a bank register (R10). -/
abbrev Byte := BitVec 8

/-- A 16-bit register or offset (R10). -/
abbrev Word16 := BitVec 16

/-- A 24-bit guest address, bank in bits 23:16 and offset in bits 15:0 (R10, R70). -/
abbrev Addr := BitVec 24

/-- An SSA handle: a 16-bit index into the arena (R12). -/
abbrev Handle := BitVec 16

/-- An IR node: a 16-bit tag and three 16-bit argument slots (R120). -/
abbrev Node := BitVec 64

/-- The sentinel, "absent" (R125). -/
abbrev sentinel : Handle := 0xFFFF#16

end Sys2Proof
end

