-- ==== Sys2Proof/Config.lean ====
section
/-! DEFINITION. The parameters the spec says a model takes as arguments (00_scope.md R11) and that no step
changes. State holds one Config (log 3), so that a statement over every state is a statement over every
value of them. P_BUDGET is an argument of `driverRun`, P_INIT_REGS and P_INIT_MEM of `State.launch`. -/

namespace Sys2Proof

/-- `P_SR_OFFSET_BYTES`, 1 or 2 (R11, R106, D43): how many operand bytes the mode `d,s` fetches. -/
inductive SrOffset where
  | oneByte
  | twoBytes
  deriving DecidableEq, Repr

/-- The number of operand bytes of `d,s` (R106). -/
def SrOffset.bytes : SrOffset → Nat
  | .oneByte => 1
  | .twoBytes => 2

/-- The named parameters of R11 that a step reads. -/
structure Config where
  /-- `P_MEM_BYTES`: an access at or above it is OutOfRangeMemory (R73, R74, D21). -/
  memBytes : Nat
  /-- `P_ARENA_CAP`: the most nodes one block's arena may hold (R12). -/
  arenaCap : Nat
  /-- `P_SR_OFFSET_BYTES` (R106, D43). -/
  srOffset : SrOffset
  deriving DecidableEq, Repr

/-- The spec's defaults of R11: 2^24 bytes, 65535 nodes, a two-byte stack-relative offset. -/
def Config.default : Config := { memBytes := 16777216, arenaCap := 65535, srOffset := .twoBytes }

end Sys2Proof
end

