-- ==== Sys2Proof/Syntax.lean ====
section
/-! DEFINITION. The instructions: one constructor for each of the 284 rows of spec/opcode_table.json.
256 guest opcodes (30_encoding.md R112, R113) and 28 IR ops (30_encoding.md R123). The rows that hold operands stand first
(IR ops in tag order, then guest opcodes in opcode order), the rows that hold none after them, in opcode order: Lean's
compiler gives at most 244 constructors with fields a tag.
A guest constructor holds its operand as one value: a direct-page offset or a displacement is a byte, an
absolute operand 16 bits, a long operand 24 bits, a stack-relative offset 16 bits (zero-extended when one
byte is fetched, R106), an immediate 16 bits (high byte 0 when one byte is fetched, 41_emitter_driver.md
R209, log 6). The 38 unimplemented opcodes decode no operand. An IR constructor holds the argument slots its op uses, as
SSA handles. -/

namespace Sys2Proof

/-- One constructor a row of the opcode table. -/
inductive Instr where
  /-- IR tag 0 `Const`, R163. -/
  | irConst (numBits : Byte) (isSigned : Byte) (value : BitVec 32)
  /-- IR tag 1 `Const48`, R164. -/
  | irConst48 (imm48 : BitVec 48)
  /-- IR tag 2 `Not`, R165. -/
  | irNot (a : Handle)
  /-- IR tag 3 `Add`, R166. -/
  | irAdd (a b : Handle)
  /-- IR tag 4 `Sub`, R167. -/
  | irSub (a b : Handle)
  /-- IR tag 5 `And`, R168. -/
  | irAnd (a b : Handle)
  /-- IR tag 6 `Or`, R169. -/
  | irOr (a b : Handle)
  /-- IR tag 7 `Xor`, R170. -/
  | irXor (a b : Handle)
  /-- IR tag 8 `ShiftLeft`, R171. -/
  | irShiftLeft (a k : Handle)
  /-- IR tag 9 `ShiftRight`, R172. -/
  | irShiftRight (a k : Handle)
  /-- IR tag 10 `Cat`, R173. -/
  | irCat (a b : Handle)
  /-- IR tag 11 `Extract`, R174. -/
  | irExtract (a lsb w : Handle)
  /-- IR tag 12 `Zext`, R175. -/
  | irZext (a n : Handle)
  /-- IR tag 13 `Eq`, R176. -/
  | irEq (a b : Handle)
  /-- IR tag 14 `Neq`, R177. -/
  | irNeq (a b : Handle)
  /-- IR tag 15 `Ternary`, R178. -/
  | irTernary (cond a b : Handle)
  /-- IR tag 16 `MemState`, R179. -/
  | irMemState (bus cyc alive : Handle)
  /-- IR tag 17 `Load8`, R180. -/
  | irLoad8 (ms addr : Handle)
  /-- IR tag 18 `Load16`, R180. -/
  | irLoad16 (ms addr : Handle)
  /-- IR tag 19 `Load32`, R180. -/
  | irLoad32 (ms addr : Handle)
  /-- IR tag 20 `Load64`, R180. -/
  | irLoad64 (ms addr : Handle)
  /-- IR tag 21 `Store8`, R183. -/
  | irStore8 (ms addr value : Handle)
  /-- IR tag 22 `Store16`, R183. -/
  | irStore16 (ms addr value : Handle)
  /-- IR tag 23 `Store32`, R183. -/
  | irStore32 (ms addr value : Handle)
  /-- IR tag 24 `Store64`, R183. -/
  | irStore64 (ms addr value : Handle)
  /-- IR tag 25 `StateRead`, R181. -/
  | irStateRead (offset size : Handle)
  /-- IR tag 26 `StateWrite`, R182. -/
  | irStateWrite (offset size value : Handle)
  /-- IR tag 27 `Assert`, R184. -/
  | irAssert (value expected : Handle)
  /-- 0x01 `ORA ($nn,X)`, R311, mode R252. -/
  | oraIndX (d : Byte)
  /-- 0x03 `ORA $nn,S`, R311, mode R255. -/
  | oraSr (off : Word16)
  /-- 0x05 `ORA $nn`, R311, mode R248. -/
  | oraDir (d : Byte)
  /-- 0x06 `ASL $nn`, R341, mode R248. -/
  | aslDir (d : Byte)
  /-- 0x07 `ORA [$nn]`, R311, mode R251. -/
  | oraIndLong (d : Byte)
  /-- 0x09 `ORA #$nn / #$nnnn`, R311, mode R256. -/
  | oraImm (v : Word16)
  /-- 0x0D `ORA $nnnn`, R311, mode R244. -/
  | oraAbs (a : Word16)
  /-- 0x0E `ASL $nnnn`, R341, mode R244. -/
  | aslAbs (a : Word16)
  /-- 0x0F `ORA $nnnnnn`, R311, mode R245. -/
  | oraLong (a : Addr)
  /-- 0x10 `BPL label`, R481, mode R258. -/
  | bpl (d : Byte)
  /-- 0x11 `ORA ($nn),Y`, R311, mode R253. -/
  | oraIndY (d : Byte)
  /-- 0x12 `ORA ($nn)`, R311, mode R250. -/
  | oraInd (d : Byte)
  /-- 0x15 `ORA $nn,X`, R311, mode R249. -/
  | oraDirX (d : Byte)
  /-- 0x16 `ASL $nn,X`, R341, mode R249. -/
  | aslDirX (d : Byte)
  /-- 0x19 `ORA $nnnn,Y`, R311, mode R246. -/
  | oraAbsY (a : Word16)
  /-- 0x1D `ORA $nnnn,X`, R311, mode R246. -/
  | oraAbsX (a : Word16)
  /-- 0x1E `ASL $nnnn,X`, R341, mode R246. -/
  | aslAbsX (a : Word16)
  /-- 0x1F `ORA $nnnnnn,X`, R311, mode R247. -/
  | oraLongX (a : Addr)
  /-- 0x20 `JSR $nnnn`, R473, mode R244. -/
  | jsrAbs (a : Word16)
  /-- 0x21 `AND ($nn,X)`, R312, mode R252. -/
  | andIndX (d : Byte)
  /-- 0x23 `AND $nn,S`, R312, mode R255. -/
  | andSr (off : Word16)
  /-- 0x24 `BIT $nn`, R347, mode R248. -/
  | bitDir (d : Byte)
  /-- 0x25 `AND $nn`, R312, mode R248. -/
  | andDir (d : Byte)
  /-- 0x26 `ROL $nn`, R342, mode R248. -/
  | rolDir (d : Byte)
  /-- 0x27 `AND [$nn]`, R312, mode R251. -/
  | andIndLong (d : Byte)
  /-- 0x29 `AND #$nn / #$nnnn`, R312, mode R256. -/
  | andImm (v : Word16)
  /-- 0x2C `BIT $nnnn`, R347, mode R244. -/
  | bitAbs (a : Word16)
  /-- 0x2D `AND $nnnn`, R312, mode R244. -/
  | andAbs (a : Word16)
  /-- 0x2E `ROL $nnnn`, R342, mode R244. -/
  | rolAbs (a : Word16)
  /-- 0x2F `AND $nnnnnn`, R312, mode R245. -/
  | andLong (a : Addr)
  /-- 0x30 `BMI label`, R482, mode R258. -/
  | bmi (d : Byte)
  /-- 0x31 `AND ($nn),Y`, R312, mode R253. -/
  | andIndY (d : Byte)
  /-- 0x32 `AND ($nn)`, R312, mode R250. -/
  | andInd (d : Byte)
  /-- 0x34 `BIT $nn,X`, R347, mode R249. -/
  | bitDirX (d : Byte)
  /-- 0x35 `AND $nn,X`, R312, mode R249. -/
  | andDirX (d : Byte)
  /-- 0x36 `ROL $nn,X`, R342, mode R249. -/
  | rolDirX (d : Byte)
  /-- 0x39 `AND $nnnn,Y`, R312, mode R246. -/
  | andAbsY (a : Word16)
  /-- 0x3C `BIT $nnnn,X`, R347, mode R246. -/
  | bitAbsX (a : Word16)
  /-- 0x3D `AND $nnnn,X`, R312, mode R246. -/
  | andAbsX (a : Word16)
  /-- 0x3E `ROL $nnnn,X`, R342, mode R246. -/
  | rolAbsX (a : Word16)
  /-- 0x3F `AND $nnnnnn,X`, R312, mode R247. -/
  | andLongX (a : Addr)
  /-- 0x41 `EOR ($nn,X)`, R313, mode R252. -/
  | eorIndX (d : Byte)
  /-- 0x43 `EOR $nn,S`, R313, mode R255. -/
  | eorSr (off : Word16)
  /-- 0x45 `EOR $nn`, R313, mode R248. -/
  | eorDir (d : Byte)
  /-- 0x46 `LSR $nn`, R343, mode R248. -/
  | lsrDir (d : Byte)
  /-- 0x47 `EOR [$nn]`, R313, mode R251. -/
  | eorIndLong (d : Byte)
  /-- 0x49 `EOR #$nn / #$nnnn`, R313, mode R256. -/
  | eorImm (v : Word16)
  /-- 0x4C `JMP $nnnn`, R470, mode R244. -/
  | jmpAbs (a : Word16)
  /-- 0x4D `EOR $nnnn`, R313, mode R244. -/
  | eorAbs (a : Word16)
  /-- 0x4E `LSR $nnnn`, R343, mode R244. -/
  | lsrAbs (a : Word16)
  /-- 0x4F `EOR $nnnnnn`, R313, mode R245. -/
  | eorLong (a : Addr)
  /-- 0x50 `BVC label`, R483, mode R258. -/
  | bvc (d : Byte)
  /-- 0x51 `EOR ($nn),Y`, R313, mode R253. -/
  | eorIndY (d : Byte)
  /-- 0x52 `EOR ($nn)`, R313, mode R250. -/
  | eorInd (d : Byte)
  /-- 0x55 `EOR $nn,X`, R313, mode R249. -/
  | eorDirX (d : Byte)
  /-- 0x56 `LSR $nn,X`, R343, mode R249. -/
  | lsrDirX (d : Byte)
  /-- 0x59 `EOR $nnnn,Y`, R313, mode R246. -/
  | eorAbsY (a : Word16)
  /-- 0x5C `JMP $nnnnnn`, R471, mode R245. -/
  | jmpLong (a : Addr)
  /-- 0x5D `EOR $nnnn,X`, R313, mode R246. -/
  | eorAbsX (a : Word16)
  /-- 0x5E `LSR $nnnn,X`, R343, mode R246. -/
  | lsrAbsX (a : Word16)
  /-- 0x5F `EOR $nnnnnn,X`, R313, mode R247. -/
  | eorLongX (a : Addr)
  /-- 0x61 `ADC ($nn,X)`, R314, mode R252. -/
  | adcIndX (d : Byte)
  /-- 0x63 `ADC $nn,S`, R314, mode R255. -/
  | adcSr (off : Word16)
  /-- 0x64 `STZ $nn`, R348, mode R248. -/
  | stzDir (d : Byte)
  /-- 0x65 `ADC $nn`, R314, mode R248. -/
  | adcDir (d : Byte)
  /-- 0x66 `ROR $nn`, R344, mode R248. -/
  | rorDir (d : Byte)
  /-- 0x67 `ADC [$nn]`, R314, mode R251. -/
  | adcIndLong (d : Byte)
  /-- 0x69 `ADC #$nn / #$nnnn`, R314, mode R256. -/
  | adcImm (v : Word16)
  /-- 0x6C `JMP ($nnnn)`, R472, mode R254. -/
  | jmpAbsInd (a : Word16)
  /-- 0x6D `ADC $nnnn`, R314, mode R244. -/
  | adcAbs (a : Word16)
  /-- 0x6E `ROR $nnnn`, R344, mode R244. -/
  | rorAbs (a : Word16)
  /-- 0x6F `ADC $nnnnnn`, R314, mode R245. -/
  | adcLong (a : Addr)
  /-- 0x70 `BVS label`, R484, mode R258. -/
  | bvs (d : Byte)
  /-- 0x71 `ADC ($nn),Y`, R314, mode R253. -/
  | adcIndY (d : Byte)
  /-- 0x72 `ADC ($nn)`, R314, mode R250. -/
  | adcInd (d : Byte)
  /-- 0x74 `STZ $nn,X`, R348, mode R249. -/
  | stzDirX (d : Byte)
  /-- 0x75 `ADC $nn,X`, R314, mode R249. -/
  | adcDirX (d : Byte)
  /-- 0x76 `ROR $nn,X`, R344, mode R249. -/
  | rorDirX (d : Byte)
  /-- 0x79 `ADC $nnnn,Y`, R314, mode R246. -/
  | adcAbsY (a : Word16)
  /-- 0x7D `ADC $nnnn,X`, R314, mode R246. -/
  | adcAbsX (a : Word16)
  /-- 0x7E `ROR $nnnn,X`, R344, mode R246. -/
  | rorAbsX (a : Word16)
  /-- 0x7F `ADC $nnnnnn,X`, R314, mode R247. -/
  | adcLongX (a : Addr)
  /-- 0x80 `BRA label`, R485, mode R258. -/
  | bra (d : Byte)
  /-- 0x81 `STA ($nn,X)`, R318, mode R252. -/
  | staIndX (d : Byte)
  /-- 0x83 `STA $nn,S`, R318, mode R255. -/
  | staSr (off : Word16)
  /-- 0x84 `STY $nn`, R374, mode R248. -/
  | styDir (d : Byte)
  /-- 0x85 `STA $nn`, R318, mode R248. -/
  | staDir (d : Byte)
  /-- 0x86 `STX $nn`, R373, mode R248. -/
  | stxDir (d : Byte)
  /-- 0x87 `STA [$nn]`, R318, mode R251. -/
  | staIndLong (d : Byte)
  /-- 0x89 `BIT #$nn / #$nnnn`, R347, mode R256. -/
  | bitImm (v : Word16)
  /-- 0x8C `STY $nnnn`, R374, mode R244. -/
  | styAbs (a : Word16)
  /-- 0x8D `STA $nnnn`, R318, mode R244. -/
  | staAbs (a : Word16)
  /-- 0x8E `STX $nnnn`, R373, mode R244. -/
  | stxAbs (a : Word16)
  /-- 0x8F `STA $nnnnnn`, R318, mode R245. -/
  | staLong (a : Addr)
  /-- 0x90 `BCC label`, R486, mode R258. -/
  | bcc (d : Byte)
  /-- 0x91 `STA ($nn),Y`, R318, mode R253. -/
  | staIndY (d : Byte)
  /-- 0x92 `STA ($nn)`, R318, mode R250. -/
  | staInd (d : Byte)
  /-- 0x94 `STY $nn,X`, R374, mode R249. -/
  | styDirX (d : Byte)
  /-- 0x95 `STA $nn,X`, R318, mode R249. -/
  | staDirX (d : Byte)
  /-- 0x96 `STX $nn,Y`, R373, mode R249. -/
  | stxDirY (d : Byte)
  /-- 0x99 `STA $nnnn,Y`, R318, mode R246. -/
  | staAbsY (a : Word16)
  /-- 0x9C `STZ $nnnn`, R348, mode R244. -/
  | stzAbs (a : Word16)
  /-- 0x9D `STA $nnnn,X`, R318, mode R246. -/
  | staAbsX (a : Word16)
  /-- 0x9E `STZ $nnnn,X`, R348, mode R246. -/
  | stzAbsX (a : Word16)
  /-- 0x9F `STA $nnnnnn,X`, R318, mode R247. -/
  | staLongX (a : Addr)
  /-- 0xA0 `LDY #$nn / #$nnnn`, R372, mode R256. -/
  | ldyImm (v : Word16)
  /-- 0xA1 `LDA ($nn,X)`, R317, mode R252. -/
  | ldaIndX (d : Byte)
  /-- 0xA2 `LDX #$nn / #$nnnn`, R371, mode R256. -/
  | ldxImm (v : Word16)
  /-- 0xA3 `LDA $nn,S`, R317, mode R255. -/
  | ldaSr (off : Word16)
  /-- 0xA4 `LDY $nn`, R372, mode R248. -/
  | ldyDir (d : Byte)
  /-- 0xA5 `LDA $nn`, R317, mode R248. -/
  | ldaDir (d : Byte)
  /-- 0xA6 `LDX $nn`, R371, mode R248. -/
  | ldxDir (d : Byte)
  /-- 0xA7 `LDA [$nn]`, R317, mode R251. -/
  | ldaIndLong (d : Byte)
  /-- 0xA9 `LDA #$nn / #$nnnn`, R317, mode R256. -/
  | ldaImm (v : Word16)
  /-- 0xAC `LDY $nnnn`, R372, mode R244. -/
  | ldyAbs (a : Word16)
  /-- 0xAD `LDA $nnnn`, R317, mode R244. -/
  | ldaAbs (a : Word16)
  /-- 0xAE `LDX $nnnn`, R371, mode R244. -/
  | ldxAbs (a : Word16)
  /-- 0xAF `LDA $nnnnnn`, R317, mode R245. -/
  | ldaLong (a : Addr)
  /-- 0xB0 `BCS label`, R487, mode R258. -/
  | bcs (d : Byte)
  /-- 0xB1 `LDA ($nn),Y`, R317, mode R253. -/
  | ldaIndY (d : Byte)
  /-- 0xB2 `LDA ($nn)`, R317, mode R250. -/
  | ldaInd (d : Byte)
  /-- 0xB4 `LDY $nn,X`, R372, mode R249. -/
  | ldyDirX (d : Byte)
  /-- 0xB5 `LDA $nn,X`, R317, mode R249. -/
  | ldaDirX (d : Byte)
  /-- 0xB6 `LDX $nn,Y`, R371, mode R249. -/
  | ldxDirY (d : Byte)
  /-- 0xB9 `LDA $nnnn,Y`, R317, mode R246. -/
  | ldaAbsY (a : Word16)
  /-- 0xBC `LDY $nnnn,X`, R372, mode R246. -/
  | ldyAbsX (a : Word16)
  /-- 0xBD `LDA $nnnn,X`, R317, mode R246. -/
  | ldaAbsX (a : Word16)
  /-- 0xBE `LDX $nnnn,Y`, R371, mode R246. -/
  | ldxAbsY (a : Word16)
  /-- 0xBF `LDA $nnnnnn,X`, R317, mode R247. -/
  | ldaLongX (a : Addr)
  /-- 0xC0 `CPY #$nn / #$nnnn`, R376, mode R256. -/
  | cpyImm (v : Word16)
  /-- 0xC1 `CMP ($nn,X)`, R316, mode R252. -/
  | cmpIndX (d : Byte)
  /-- 0xC3 `CMP $nn,S`, R316, mode R255. -/
  | cmpSr (off : Word16)
  /-- 0xC4 `CPY $nn`, R376, mode R248. -/
  | cpyDir (d : Byte)
  /-- 0xC5 `CMP $nn`, R316, mode R248. -/
  | cmpDir (d : Byte)
  /-- 0xC6 `DEC $nn`, R346, mode R248. -/
  | decDir (d : Byte)
  /-- 0xC7 `CMP [$nn]`, R316, mode R251. -/
  | cmpIndLong (d : Byte)
  /-- 0xC9 `CMP #$nn / #$nnnn`, R316, mode R256. -/
  | cmpImm (v : Word16)
  /-- 0xCC `CPY $nnnn`, R376, mode R244. -/
  | cpyAbs (a : Word16)
  /-- 0xCD `CMP $nnnn`, R316, mode R244. -/
  | cmpAbs (a : Word16)
  /-- 0xCE `DEC $nnnn`, R346, mode R244. -/
  | decAbs (a : Word16)
  /-- 0xCF `CMP $nnnnnn`, R316, mode R245. -/
  | cmpLong (a : Addr)
  /-- 0xD0 `BNE label`, R488, mode R258. -/
  | bne (d : Byte)
  /-- 0xD1 `CMP ($nn),Y`, R316, mode R253. -/
  | cmpIndY (d : Byte)
  /-- 0xD2 `CMP ($nn)`, R316, mode R250. -/
  | cmpInd (d : Byte)
  /-- 0xD5 `CMP $nn,X`, R316, mode R249. -/
  | cmpDirX (d : Byte)
  /-- 0xD6 `DEC $nn,X`, R346, mode R249. -/
  | decDirX (d : Byte)
  /-- 0xD9 `CMP $nnnn,Y`, R316, mode R246. -/
  | cmpAbsY (a : Word16)
  /-- 0xDD `CMP $nnnn,X`, R316, mode R246. -/
  | cmpAbsX (a : Word16)
  /-- 0xDE `DEC $nnnn,X`, R346, mode R246. -/
  | decAbsX (a : Word16)
  /-- 0xDF `CMP $nnnnnn,X`, R316, mode R247. -/
  | cmpLongX (a : Addr)
  /-- 0xE0 `CPX #$nn / #$nnnn`, R375, mode R256. -/
  | cpxImm (v : Word16)
  /-- 0xE1 `SBC ($nn,X)`, R315, mode R252. -/
  | sbcIndX (d : Byte)
  /-- 0xE3 `SBC $nn,S`, R315, mode R255. -/
  | sbcSr (off : Word16)
  /-- 0xE4 `CPX $nn`, R375, mode R248. -/
  | cpxDir (d : Byte)
  /-- 0xE5 `SBC $nn`, R315, mode R248. -/
  | sbcDir (d : Byte)
  /-- 0xE6 `INC $nn`, R345, mode R248. -/
  | incDir (d : Byte)
  /-- 0xE7 `SBC [$nn]`, R315, mode R251. -/
  | sbcIndLong (d : Byte)
  /-- 0xE9 `SBC #$nn / #$nnnn`, R315, mode R256. -/
  | sbcImm (v : Word16)
  /-- 0xEC `CPX $nnnn`, R375, mode R244. -/
  | cpxAbs (a : Word16)
  /-- 0xED `SBC $nnnn`, R315, mode R244. -/
  | sbcAbs (a : Word16)
  /-- 0xEE `INC $nnnn`, R345, mode R244. -/
  | incAbs (a : Word16)
  /-- 0xEF `SBC $nnnnnn`, R315, mode R245. -/
  | sbcLong (a : Addr)
  /-- 0xF0 `BEQ label`, R489, mode R258. -/
  | beq (d : Byte)
  /-- 0xF1 `SBC ($nn),Y`, R315, mode R253. -/
  | sbcIndY (d : Byte)
  /-- 0xF2 `SBC ($nn)`, R315, mode R250. -/
  | sbcInd (d : Byte)
  /-- 0xF5 `SBC $nn,X`, R315, mode R249. -/
  | sbcDirX (d : Byte)
  /-- 0xF6 `INC $nn,X`, R345, mode R249. -/
  | incDirX (d : Byte)
  /-- 0xF9 `SBC $nnnn,Y`, R315, mode R246. -/
  | sbcAbsY (a : Word16)
  /-- 0xFD `SBC $nnnn,X`, R315, mode R246. -/
  | sbcAbsX (a : Word16)
  /-- 0xFE `INC $nnnn,X`, R345, mode R246. -/
  | incAbsX (a : Word16)
  /-- 0xFF `SBC $nnnnnn,X`, R315, mode R247. -/
  | sbcLongX (a : Addr)
  /-- 0x00 `BRK stack/interrupt`, unimplemented (R113). -/
  | brk
  /-- 0x02 `COP stack/interrupt`, unimplemented (R113). -/
  | cop
  /-- 0x04 `TSB d`, unimplemented (R113). -/
  | tsbDir
  /-- 0x08 `PHP`, R447, mode R257. -/
  | php
  /-- 0x0A `ASL A`, R341, mode R257. -/
  | aslAcc
  /-- 0x0B `PHD`, R449, mode R257. -/
  | phd
  /-- 0x0C `TSB a`, unimplemented (R113). -/
  | tsbAbs
  /-- 0x13 `ORA (d,s),y`, unimplemented (R113). -/
  | oraSrIndY
  /-- 0x14 `TRB d`, unimplemented (R113). -/
  | trbDir
  /-- 0x17 `ORA [d],y`, unimplemented (R113). -/
  | oraIndLongY
  /-- 0x18 `CLC`, R415, mode R257. -/
  | clc
  /-- 0x1A `INC A`, R345, mode R257. -/
  | incAcc
  /-- 0x1B `TCS`, R409, mode R257. -/
  | tcs
  /-- 0x1C `TRB a`, unimplemented (R113). -/
  | trbAbs
  /-- 0x22 `JSL al`, unimplemented (R113). -/
  | jsl
  /-- 0x28 `PLP`, R448, mode R257. -/
  | plp
  /-- 0x2A `ROL A`, R342, mode R257. -/
  | rolAcc
  /-- 0x2B `PLD`, R450, mode R257. -/
  | pld
  /-- 0x33 `AND (d,s),y`, unimplemented (R113). -/
  | andSrIndY
  /-- 0x37 `AND [d],y`, unimplemented (R113). -/
  | andIndLongY
  /-- 0x38 `SEC`, R416, mode R257. -/
  | sec
  /-- 0x3A `DEC A`, R346, mode R257. -/
  | decAcc
  /-- 0x3B `TSC`, R410, mode R257. -/
  | tsc
  /-- 0x40 `RTI`, R475, mode R257. -/
  | rti
  /-- 0x42 `WDM 2-byte reserved`, unimplemented (R113). -/
  | wdm
  /-- 0x44 `MVP block move`, unimplemented (R113). -/
  | mvp
  /-- 0x48 `PHA`, R441, mode R257. -/
  | pha
  /-- 0x4A `LSR A`, R343, mode R257. -/
  | lsrAcc
  /-- 0x4B `PHK`, R451, mode R257. -/
  | phk
  /-- 0x53 `EOR (d,s),y`, unimplemented (R113). -/
  | eorSrIndY
  /-- 0x54 `MVN block move`, unimplemented (R113). -/
  | mvn
  /-- 0x57 `EOR [d],y`, unimplemented (R113). -/
  | eorIndLongY
  /-- 0x58 `CLI`, R417, mode R257. -/
  | cli
  /-- 0x5A `PHY`, R445, mode R257. -/
  | phy
  /-- 0x5B `TCD`, R411, mode R257. -/
  | tcd
  /-- 0x60 `RTS`, R474, mode R257. -/
  | rts
  /-- 0x62 `PER stack PC-relative long`, unimplemented (R113). -/
  | per
  /-- 0x68 `PLA`, R442, mode R257. -/
  | pla
  /-- 0x6A `ROR A`, R344, mode R257. -/
  | rorAcc
  /-- 0x6B `RTL stack`, unimplemented (R113). -/
  | rtl
  /-- 0x73 `ADC (d,s),y`, unimplemented (R113). -/
  | adcSrIndY
  /-- 0x77 `ADC [d],y`, unimplemented (R113). -/
  | adcIndLongY
  /-- 0x78 `SEI`, R418, mode R257. -/
  | sei
  /-- 0x7A `PLY`, R446, mode R257. -/
  | ply
  /-- 0x7B `TDC`, R412, mode R257. -/
  | tdc
  /-- 0x7C `JMP__a_x (a,x)`, unimplemented (R113). -/
  | jmpAbsIndX
  /-- 0x82 `BRL rl (16-bit relative)`, unimplemented (R113). -/
  | brl
  /-- 0x88 `DEY`, R380, mode R257. -/
  | dey
  /-- 0x8A `TXA`, R403, mode R257. -/
  | txa
  /-- 0x8B `PHB`, R452, mode R257. -/
  | phb
  /-- 0x93 `STA (d,s),y`, unimplemented (R113). -/
  | staSrIndY
  /-- 0x97 `STA [d],y`, unimplemented (R113). -/
  | staIndLongY
  /-- 0x98 `TYA`, R404, mode R257. -/
  | tya
  /-- 0x9A `TXS`, R407, mode R257. -/
  | txs
  /-- 0x9B `TXY`, R405, mode R257. -/
  | txy
  /-- 0xA8 `TAY`, R402, mode R257. -/
  | tay
  /-- 0xAA `TAX`, R401, mode R257. -/
  | tax
  /-- 0xAB `PLB`, R453, mode R257. -/
  | plb
  /-- 0xB3 `LDA (d,s),y`, unimplemented (R113). -/
  | ldaSrIndY
  /-- 0xB7 `LDA [d],y`, unimplemented (R113). -/
  | ldaIndLongY
  /-- 0xB8 `CLV`, R419, mode R257. -/
  | clv
  /-- 0xBA `TSX`, R408, mode R257. -/
  | tsx
  /-- 0xBB `TYX`, R406, mode R257. -/
  | tyx
  /-- 0xC2 `REP #imm8`, unimplemented (R113). -/
  | rep
  /-- 0xC8 `INY`, R378, mode R257. -/
  | iny
  /-- 0xCA `DEX`, R379, mode R257. -/
  | dex
  /-- 0xCB `WAI implied`, unimplemented (R113). -/
  | wai
  /-- 0xD3 `CMP (d,s),y`, unimplemented (R113). -/
  | cmpSrIndY
  /-- 0xD4 `PEI stack (d)`, unimplemented (R113). -/
  | pei
  /-- 0xD7 `CMP [d],y`, unimplemented (R113). -/
  | cmpIndLongY
  /-- 0xD8 `CLD`, R420, mode R257. -/
  | cld
  /-- 0xDA `PHX`, R443, mode R257. -/
  | phx
  /-- 0xDB `STP implied`, unimplemented (R113). -/
  | stp
  /-- 0xDC `JML [a]`, unimplemented (R113). -/
  | jml
  /-- 0xE2 `SEP #imm8`, unimplemented (R113). -/
  | sep
  /-- 0xE8 `INX`, R377, mode R257. -/
  | inx
  /-- 0xEA `NOP`, R422, mode R257. -/
  | nop
  /-- 0xEB `XBA`, R413, mode R257. -/
  | xba
  /-- 0xF3 `SBC (d,s),y`, unimplemented (R113). -/
  | sbcSrIndY
  /-- 0xF4 `PEA stack immediate`, unimplemented (R113). -/
  | pea
  /-- 0xF7 `SBC [d],y`, unimplemented (R113). -/
  | sbcIndLongY
  /-- 0xF8 `SED`, R421, mode R257. -/
  | sed
  /-- 0xFA `PLX`, R444, mode R257. -/
  | plx
  /-- 0xFB `XCE`, R414, mode R257. -/
  | xce
  /-- 0xFC `JSR__a_x (a,x)`, unimplemented (R113). -/
  | jsrAbsIndX
  deriving DecidableEq, Repr

end Sys2Proof
end

