-- ==== Sys2Proof/WellFormed.lean ====
section
/-! DEFINITION. When an instruction is well formed, that is, an instruction the encoding can hold (30_encoding.md R102,
R106, R121, R125, R126). It depends on what decoding depends on (R107): M, X_flag and P_SR_OFFSET_BYTES. -/

namespace Sys2Proof

/-- What the length and the operands of an instruction depend on besides its bytes (R107). -/
structure Ctx where
  /-- M: an accumulator immediate is 8 bits when true (R102). -/
  m : Bool
  /-- X_flag: an index immediate is 8 bits when true (R102). -/
  xf : Bool
  /-- P_SR_OFFSET_BYTES (R106). -/
  sr : SrOffset
  deriving DecidableEq, Repr

/-- An immediate fetched as one byte has high byte 0 (R209: "hi = 0 when flag = 1"). -/
def immFits (narrow : Bool) (v : Word16) : Bool := !narrow || v.extractLsb' 8 8 == 0#8

/-- A one-byte stack-relative offset is zero-extended (R106). -/
def srFits (sr : SrOffset) (off : Word16) : Bool := sr == .twoBytes || off.extractLsb' 8 8 == 0#8

/-- The widths a Const may have (R121, R163). -/
def constWidthOk (numBits : Byte) : Bool := [1#8, 8#8, 16#8, 24#8, 32#8, 64#8].contains numBits

/-- No used argument slot holds the sentinel (R124, R125). -/
def argsPresent (args : List Handle) : Bool := args.all (fun h => h != sentinel)

/-- Well-formedness in a decoding context. -/
def Instr.wellFormed (c : Ctx) : Instr → Bool
  | .oraImm v | .andImm v | .eorImm v | .adcImm v | .bitImm v | .ldaImm v | .cmpImm v | .sbcImm v => immFits c.m v
  | .ldyImm v | .ldxImm v | .cpyImm v | .cpxImm v => immFits c.xf v
  | .oraSr off | .andSr off | .eorSr off | .adcSr off | .staSr off | .ldaSr off | .cmpSr off | .sbcSr off => srFits c.sr off
  | .irConst numBits _ _ => constWidthOk numBits
  | .irConst48 _ => true
  | .irNot a => argsPresent [a]
  | .irAdd a b | .irSub a b | .irAnd a b | .irOr a b | .irXor a b | .irShiftLeft a b | .irShiftRight a b
  | .irCat a b | .irZext a b | .irEq a b | .irNeq a b | .irLoad8 a b | .irLoad16 a b | .irLoad32 a b
  | .irLoad64 a b | .irStateRead a b | .irAssert a b => argsPresent [a, b]
  | .irExtract a b d | .irTernary a b d | .irMemState a b d | .irStore8 a b d | .irStore16 a b d
  | .irStore32 a b d | .irStore64 a b d | .irStateWrite a b d => argsPresent [a, b, d]
  | .oraIndX _ | .oraDir _ | .aslDir _ | .oraIndLong _ | .oraAbs _ | .aslAbs _ | .oraLong _ | .bpl _
  | .oraIndY _ | .oraInd _ | .oraDirX _ | .aslDirX _ | .oraAbsY _ | .oraAbsX _ | .aslAbsX _ | .oraLongX _
  | .jsrAbs _ | .andIndX _ | .bitDir _ | .andDir _ | .rolDir _ | .andIndLong _ | .bitAbs _ | .andAbs _
  | .rolAbs _ | .andLong _ | .bmi _ | .andIndY _ | .andInd _ | .bitDirX _ | .andDirX _ | .rolDirX _
  | .andAbsY _ | .bitAbsX _ | .andAbsX _ | .rolAbsX _ | .andLongX _ | .eorIndX _ | .eorDir _ | .lsrDir _
  | .eorIndLong _ | .jmpAbs _ | .eorAbs _ | .lsrAbs _ | .eorLong _ | .bvc _ | .eorIndY _ | .eorInd _
  | .eorDirX _ | .lsrDirX _ | .eorAbsY _ | .jmpLong _ | .eorAbsX _ | .lsrAbsX _ | .eorLongX _ | .adcIndX _
  | .stzDir _ | .adcDir _ | .rorDir _ | .adcIndLong _ | .jmpAbsInd _ | .adcAbs _ | .rorAbs _ | .adcLong _
  | .bvs _ | .adcIndY _ | .adcInd _ | .stzDirX _ | .adcDirX _ | .rorDirX _ | .adcAbsY _ | .adcAbsX _
  | .rorAbsX _ | .adcLongX _ | .bra _ | .staIndX _ | .styDir _ | .staDir _ | .stxDir _ | .staIndLong _
  | .styAbs _ | .staAbs _ | .stxAbs _ | .staLong _ | .bcc _ | .staIndY _ | .staInd _ | .styDirX _
  | .staDirX _ | .stxDirY _ | .staAbsY _ | .stzAbs _ | .staAbsX _ | .stzAbsX _ | .staLongX _ | .ldaIndX _
  | .ldyDir _ | .ldaDir _ | .ldxDir _ | .ldaIndLong _ | .ldyAbs _ | .ldaAbs _ | .ldxAbs _ | .ldaLong _
  | .bcs _ | .ldaIndY _ | .ldaInd _ | .ldyDirX _ | .ldaDirX _ | .ldxDirY _ | .ldaAbsY _ | .ldyAbsX _
  | .ldaAbsX _ | .ldxAbsY _ | .ldaLongX _ | .cmpIndX _ | .cpyDir _ | .cmpDir _ | .decDir _ | .cmpIndLong _
  | .cpyAbs _ | .cmpAbs _ | .decAbs _ | .cmpLong _ | .bne _ | .cmpIndY _ | .cmpInd _ | .cmpDirX _
  | .decDirX _ | .cmpAbsY _ | .cmpAbsX _ | .decAbsX _ | .cmpLongX _ | .sbcIndX _ | .cpxDir _ | .sbcDir _
  | .incDir _ | .sbcIndLong _ | .cpxAbs _ | .sbcAbs _ | .incAbs _ | .sbcLong _ | .beq _ | .sbcIndY _
  | .sbcInd _ | .sbcDirX _ | .incDirX _ | .sbcAbsY _ | .sbcAbsX _ | .incAbsX _ | .sbcLongX _ => true
  | .brk | .cop | .tsbDir | .php | .aslAcc | .phd | .tsbAbs | .oraSrIndY | .trbDir | .oraIndLongY | .clc
  | .incAcc | .tcs | .trbAbs | .jsl | .plp | .rolAcc | .pld | .andSrIndY | .andIndLongY | .sec | .decAcc
  | .tsc | .rti | .wdm | .mvp | .pha | .lsrAcc | .phk | .eorSrIndY | .mvn | .eorIndLongY | .cli | .phy
  | .tcd | .rts | .per | .pla | .rorAcc | .rtl | .adcSrIndY | .adcIndLongY | .sei | .ply | .tdc
  | .jmpAbsIndX | .brl | .dey | .txa | .phb | .staSrIndY | .staIndLongY | .tya | .txs | .txy | .tay | .tax
  | .plb | .ldaSrIndY | .ldaIndLongY | .clv | .tsx | .tyx | .rep | .iny | .dex | .wai | .cmpSrIndY | .pei
  | .cmpIndLongY | .cld | .phx | .stp | .jml | .sep | .inx | .nop | .xba | .sbcSrIndY | .pea | .sbcIndLongY
  | .sed | .plx | .xce | .jsrAbsIndX => true

end Sys2Proof
end

