-- ==== Sys2Proof/Decode.lean ====
section
/-! DEFINITION. Decoding of guest instruction bytes and of 64-bit IR nodes (30_encoding.md), total, rejecting by name, and the
encoder after it. Guest bytes are numbered from the opcode byte (R100, R101); an IR node is laid out as R120 to R122 say. -/

namespace Sys2Proof

/-- Why a decoder rejects its input. -/
inductive DecodeError where
  /-- The bytes end before the operands do. -/
  | truncated
  /-- Bytes are left over after the operands. -/
  | trailing
  /-- An IR node whose tag is 28 or more (R123). -/
  | unusedTag (tag : BitVec 16)
  deriving DecidableEq, Repr

/-! ### Formats and lengths (R101, R107) -/

/-- The formats of R101, and `unimplemented` for the opcodes of R113, whose operands are not decoded. -/
inductive Format where
  | implied | acc | immM | immX | dir | dirX | dirY | ind | indLong | indX | indY | sr
  | abs | absX | absY | long | longX | absInd | rel | unimplemented
  deriving DecidableEq, Repr

/-- Length in bytes, opcode included (R101, R107). An unimplemented opcode is not decoded past its byte. -/
def Format.length (c : Ctx) : Format → Nat
  | .implied | .acc | .unimplemented => 1
  | .immM => if c.m then 2 else 3
  | .immX => if c.xf then 2 else 3
  | .dir | .dirX | .dirY | .ind | .indLong | .indX | .indY | .rel => 2
  | .sr => 1 + c.sr.bytes
  | .abs | .absX | .absY | .absInd => 3
  | .long | .longX => 4

/-- Row 0x of the opcode map (R112). -/
def formatRow0 : List Format :=
  [.unimplemented, .indX, .unimplemented, .sr, .unimplemented, .dir, .dir, .indLong,
   .implied, .immM, .acc, .implied, .unimplemented, .abs, .abs, .long]

/-- Row 1x of the opcode map (R112). -/
def formatRow1 : List Format :=
  [.rel, .indY, .ind, .unimplemented, .unimplemented, .dirX, .dirX, .unimplemented,
   .implied, .absY, .acc, .implied, .unimplemented, .absX, .absX, .longX]

/-- Row 2x of the opcode map (R112). -/
def formatRow2 : List Format :=
  [.abs, .indX, .unimplemented, .sr, .dir, .dir, .dir, .indLong,
   .implied, .immM, .acc, .implied, .abs, .abs, .abs, .long]

/-- Row 3x of the opcode map (R112). -/
def formatRow3 : List Format :=
  [.rel, .indY, .ind, .unimplemented, .dirX, .dirX, .dirX, .unimplemented,
   .implied, .absY, .acc, .implied, .absX, .absX, .absX, .longX]

/-- Row 4x of the opcode map (R112). -/
def formatRow4 : List Format :=
  [.implied, .indX, .unimplemented, .sr, .unimplemented, .dir, .dir, .indLong,
   .implied, .immM, .acc, .implied, .abs, .abs, .abs, .long]

/-- Row 5x of the opcode map (R112). -/
def formatRow5 : List Format :=
  [.rel, .indY, .ind, .unimplemented, .unimplemented, .dirX, .dirX, .unimplemented,
   .implied, .absY, .implied, .implied, .long, .absX, .absX, .longX]

/-- Row 6x of the opcode map (R112). -/
def formatRow6 : List Format :=
  [.implied, .indX, .unimplemented, .sr, .dir, .dir, .dir, .indLong,
   .implied, .immM, .acc, .unimplemented, .absInd, .abs, .abs, .long]

/-- Row 7x of the opcode map (R112). -/
def formatRow7 : List Format :=
  [.rel, .indY, .ind, .unimplemented, .dirX, .dirX, .dirX, .unimplemented,
   .implied, .absY, .implied, .implied, .unimplemented, .absX, .absX, .longX]

/-- Row 8x of the opcode map (R112). -/
def formatRow8 : List Format :=
  [.rel, .indX, .unimplemented, .sr, .dir, .dir, .dir, .indLong,
   .implied, .immM, .implied, .implied, .abs, .abs, .abs, .long]

/-- Row 9x of the opcode map (R112). -/
def formatRow9 : List Format :=
  [.rel, .indY, .ind, .unimplemented, .dirX, .dirX, .dirY, .unimplemented,
   .implied, .absY, .implied, .implied, .abs, .absX, .absX, .longX]

/-- Row Ax of the opcode map (R112). -/
def formatRowA : List Format :=
  [.immX, .indX, .immX, .sr, .dir, .dir, .dir, .indLong,
   .implied, .immM, .implied, .implied, .abs, .abs, .abs, .long]

/-- Row Bx of the opcode map (R112). -/
def formatRowB : List Format :=
  [.rel, .indY, .ind, .unimplemented, .dirX, .dirX, .dirY, .unimplemented,
   .implied, .absY, .implied, .implied, .absX, .absX, .absY, .longX]

/-- Row Cx of the opcode map (R112). -/
def formatRowC : List Format :=
  [.immX, .indX, .unimplemented, .sr, .dir, .dir, .dir, .indLong,
   .implied, .immM, .implied, .unimplemented, .abs, .abs, .abs, .long]

/-- Row Dx of the opcode map (R112). -/
def formatRowD : List Format :=
  [.rel, .indY, .ind, .unimplemented, .unimplemented, .dirX, .dirX, .unimplemented,
   .implied, .absY, .implied, .unimplemented, .unimplemented, .absX, .absX, .longX]

/-- Row Ex of the opcode map (R112). -/
def formatRowE : List Format :=
  [.immX, .indX, .unimplemented, .sr, .dir, .dir, .dir, .indLong,
   .implied, .immM, .implied, .implied, .abs, .abs, .abs, .long]

/-- Row Fx of the opcode map (R112). -/
def formatRowF : List Format :=
  [.rel, .indY, .ind, .unimplemented, .unimplemented, .dirX, .dirX, .unimplemented,
   .implied, .absY, .implied, .implied, .unimplemented, .absX, .absX, .longX]

/-- The opcode map of R112 as formats, in opcode order. -/
def formatMap : List (List Format) :=
  [formatRow0, formatRow1, formatRow2, formatRow3, formatRow4, formatRow5, formatRow6, formatRow7,
   formatRow8, formatRow9, formatRowA, formatRowB, formatRowC, formatRowD, formatRowE, formatRowF]

/-- The format of an opcode byte: row by the high nibble, column by the low (R112). -/
def formatOf (op : Byte) : Format :=
  ((formatMap.getD (op.toNat / 16) []).getD (op.toNat % 16) .unimplemented)

/-- Is the opcode one of the 38 of R113? -/
def isUnimplemented (op : Byte) : Bool := formatOf op == .unimplemented

/-- The length of the instruction an opcode byte starts (R107). -/
def instrLength (c : Ctx) (op : Byte) : Nat := (formatOf op).length c

/-! ### Operand assembly (R102 to R106) -/

/-- Two operand bytes, the first the low one (R79, D2). -/
def le16 (lo hi : Byte) : Word16 := hi ++ lo

/-- Three operand bytes, the first the low one (R79, D2). -/
def le24 (lo hi bank : Byte) : Addr := (bank ++ hi) ++ lo

/-- What a guest decoder answers: the instruction and the bytes after it. -/
abbrev Decoded := Except DecodeError (Instr × List Byte)

/-- No operand byte. -/
def operand0 (i : Instr) (rest : List Byte) : Decoded := .ok (i, rest)

/-- One operand byte (R103, R105). -/
def operand8 (k : Byte → Instr) : List Byte → Decoded
  | b :: rest => .ok (k b, rest)
  | [] => .error .truncated

/-- Two operand bytes (R104). -/
def operand16 (k : Word16 → Instr) : List Byte → Decoded
  | lo :: hi :: rest => .ok (k (le16 lo hi), rest)
  | _ => .error .truncated

/-- Three operand bytes (R104). -/
def operand24 (k : Addr → Instr) : List Byte → Decoded
  | lo :: hi :: bank :: rest => .ok (k (le24 lo hi bank), rest)
  | _ => .error .truncated

/-- An immediate, one byte when `narrow`, else two (R102, R209). -/
def operandImm (narrow : Bool) (k : Word16 → Instr) (bytes : List Byte) : Decoded :=
  if narrow then operand8 (fun b => k (b.setWidth 16)) bytes else operand16 k bytes

/-- A stack-relative offset (R106). -/
def operandSr (sr : SrOffset) (k : Word16 → Instr) (bytes : List Byte) : Decoded :=
  match sr with
  | .oneByte => operand8 (fun b => k (b.setWidth 16)) bytes
  | .twoBytes => operand16 k bytes

/-! ### The guest decoder: one function a row of the map of R112 -/

/-- Opcodes 0x00 to 0x0F (R112); the column is the low nibble. -/
def decodeRow0 (c : Ctx) (column : Nat) (rest : List Byte) : Decoded :=
  match column with
  | 0 => operand0 .brk rest
  | 1 => operand8 .oraIndX rest
  | 2 => operand0 .cop rest
  | 3 => operandSr c.sr .oraSr rest
  | 4 => operand0 .tsbDir rest
  | 5 => operand8 .oraDir rest
  | 6 => operand8 .aslDir rest
  | 7 => operand8 .oraIndLong rest
  | 8 => operand0 .php rest
  | 9 => operandImm c.m .oraImm rest
  | 10 => operand0 .aslAcc rest
  | 11 => operand0 .phd rest
  | 12 => operand0 .tsbAbs rest
  | 13 => operand16 .oraAbs rest
  | 14 => operand16 .aslAbs rest
  | _ => operand24 .oraLong rest

/-- Opcodes 0x10 to 0x1F (R112); the column is the low nibble. -/
def decodeRow1 (_c : Ctx) (column : Nat) (rest : List Byte) : Decoded :=
  match column with
  | 0 => operand8 .bpl rest
  | 1 => operand8 .oraIndY rest
  | 2 => operand8 .oraInd rest
  | 3 => operand0 .oraSrIndY rest
  | 4 => operand0 .trbDir rest
  | 5 => operand8 .oraDirX rest
  | 6 => operand8 .aslDirX rest
  | 7 => operand0 .oraIndLongY rest
  | 8 => operand0 .clc rest
  | 9 => operand16 .oraAbsY rest
  | 10 => operand0 .incAcc rest
  | 11 => operand0 .tcs rest
  | 12 => operand0 .trbAbs rest
  | 13 => operand16 .oraAbsX rest
  | 14 => operand16 .aslAbsX rest
  | _ => operand24 .oraLongX rest

/-- Opcodes 0x20 to 0x2F (R112); the column is the low nibble. -/
def decodeRow2 (c : Ctx) (column : Nat) (rest : List Byte) : Decoded :=
  match column with
  | 0 => operand16 .jsrAbs rest
  | 1 => operand8 .andIndX rest
  | 2 => operand0 .jsl rest
  | 3 => operandSr c.sr .andSr rest
  | 4 => operand8 .bitDir rest
  | 5 => operand8 .andDir rest
  | 6 => operand8 .rolDir rest
  | 7 => operand8 .andIndLong rest
  | 8 => operand0 .plp rest
  | 9 => operandImm c.m .andImm rest
  | 10 => operand0 .rolAcc rest
  | 11 => operand0 .pld rest
  | 12 => operand16 .bitAbs rest
  | 13 => operand16 .andAbs rest
  | 14 => operand16 .rolAbs rest
  | _ => operand24 .andLong rest

/-- Opcodes 0x30 to 0x3F (R112); the column is the low nibble. -/
def decodeRow3 (_c : Ctx) (column : Nat) (rest : List Byte) : Decoded :=
  match column with
  | 0 => operand8 .bmi rest
  | 1 => operand8 .andIndY rest
  | 2 => operand8 .andInd rest
  | 3 => operand0 .andSrIndY rest
  | 4 => operand8 .bitDirX rest
  | 5 => operand8 .andDirX rest
  | 6 => operand8 .rolDirX rest
  | 7 => operand0 .andIndLongY rest
  | 8 => operand0 .sec rest
  | 9 => operand16 .andAbsY rest
  | 10 => operand0 .decAcc rest
  | 11 => operand0 .tsc rest
  | 12 => operand16 .bitAbsX rest
  | 13 => operand16 .andAbsX rest
  | 14 => operand16 .rolAbsX rest
  | _ => operand24 .andLongX rest

/-- Opcodes 0x40 to 0x4F (R112); the column is the low nibble. -/
def decodeRow4 (c : Ctx) (column : Nat) (rest : List Byte) : Decoded :=
  match column with
  | 0 => operand0 .rti rest
  | 1 => operand8 .eorIndX rest
  | 2 => operand0 .wdm rest
  | 3 => operandSr c.sr .eorSr rest
  | 4 => operand0 .mvp rest
  | 5 => operand8 .eorDir rest
  | 6 => operand8 .lsrDir rest
  | 7 => operand8 .eorIndLong rest
  | 8 => operand0 .pha rest
  | 9 => operandImm c.m .eorImm rest
  | 10 => operand0 .lsrAcc rest
  | 11 => operand0 .phk rest
  | 12 => operand16 .jmpAbs rest
  | 13 => operand16 .eorAbs rest
  | 14 => operand16 .lsrAbs rest
  | _ => operand24 .eorLong rest

/-- Opcodes 0x50 to 0x5F (R112); the column is the low nibble. -/
def decodeRow5 (_c : Ctx) (column : Nat) (rest : List Byte) : Decoded :=
  match column with
  | 0 => operand8 .bvc rest
  | 1 => operand8 .eorIndY rest
  | 2 => operand8 .eorInd rest
  | 3 => operand0 .eorSrIndY rest
  | 4 => operand0 .mvn rest
  | 5 => operand8 .eorDirX rest
  | 6 => operand8 .lsrDirX rest
  | 7 => operand0 .eorIndLongY rest
  | 8 => operand0 .cli rest
  | 9 => operand16 .eorAbsY rest
  | 10 => operand0 .phy rest
  | 11 => operand0 .tcd rest
  | 12 => operand24 .jmpLong rest
  | 13 => operand16 .eorAbsX rest
  | 14 => operand16 .lsrAbsX rest
  | _ => operand24 .eorLongX rest

/-- Opcodes 0x60 to 0x6F (R112); the column is the low nibble. -/
def decodeRow6 (c : Ctx) (column : Nat) (rest : List Byte) : Decoded :=
  match column with
  | 0 => operand0 .rts rest
  | 1 => operand8 .adcIndX rest
  | 2 => operand0 .per rest
  | 3 => operandSr c.sr .adcSr rest
  | 4 => operand8 .stzDir rest
  | 5 => operand8 .adcDir rest
  | 6 => operand8 .rorDir rest
  | 7 => operand8 .adcIndLong rest
  | 8 => operand0 .pla rest
  | 9 => operandImm c.m .adcImm rest
  | 10 => operand0 .rorAcc rest
  | 11 => operand0 .rtl rest
  | 12 => operand16 .jmpAbsInd rest
  | 13 => operand16 .adcAbs rest
  | 14 => operand16 .rorAbs rest
  | _ => operand24 .adcLong rest

/-- Opcodes 0x70 to 0x7F (R112); the column is the low nibble. -/
def decodeRow7 (_c : Ctx) (column : Nat) (rest : List Byte) : Decoded :=
  match column with
  | 0 => operand8 .bvs rest
  | 1 => operand8 .adcIndY rest
  | 2 => operand8 .adcInd rest
  | 3 => operand0 .adcSrIndY rest
  | 4 => operand8 .stzDirX rest
  | 5 => operand8 .adcDirX rest
  | 6 => operand8 .rorDirX rest
  | 7 => operand0 .adcIndLongY rest
  | 8 => operand0 .sei rest
  | 9 => operand16 .adcAbsY rest
  | 10 => operand0 .ply rest
  | 11 => operand0 .tdc rest
  | 12 => operand0 .jmpAbsIndX rest
  | 13 => operand16 .adcAbsX rest
  | 14 => operand16 .rorAbsX rest
  | _ => operand24 .adcLongX rest

/-- Opcodes 0x80 to 0x8F (R112); the column is the low nibble. -/
def decodeRow8 (c : Ctx) (column : Nat) (rest : List Byte) : Decoded :=
  match column with
  | 0 => operand8 .bra rest
  | 1 => operand8 .staIndX rest
  | 2 => operand0 .brl rest
  | 3 => operandSr c.sr .staSr rest
  | 4 => operand8 .styDir rest
  | 5 => operand8 .staDir rest
  | 6 => operand8 .stxDir rest
  | 7 => operand8 .staIndLong rest
  | 8 => operand0 .dey rest
  | 9 => operandImm c.m .bitImm rest
  | 10 => operand0 .txa rest
  | 11 => operand0 .phb rest
  | 12 => operand16 .styAbs rest
  | 13 => operand16 .staAbs rest
  | 14 => operand16 .stxAbs rest
  | _ => operand24 .staLong rest

/-- Opcodes 0x90 to 0x9F (R112); the column is the low nibble. -/
def decodeRow9 (_c : Ctx) (column : Nat) (rest : List Byte) : Decoded :=
  match column with
  | 0 => operand8 .bcc rest
  | 1 => operand8 .staIndY rest
  | 2 => operand8 .staInd rest
  | 3 => operand0 .staSrIndY rest
  | 4 => operand8 .styDirX rest
  | 5 => operand8 .staDirX rest
  | 6 => operand8 .stxDirY rest
  | 7 => operand0 .staIndLongY rest
  | 8 => operand0 .tya rest
  | 9 => operand16 .staAbsY rest
  | 10 => operand0 .txs rest
  | 11 => operand0 .txy rest
  | 12 => operand16 .stzAbs rest
  | 13 => operand16 .staAbsX rest
  | 14 => operand16 .stzAbsX rest
  | _ => operand24 .staLongX rest

/-- Opcodes 0xA0 to 0xAF (R112); the column is the low nibble. -/
def decodeRowA (c : Ctx) (column : Nat) (rest : List Byte) : Decoded :=
  match column with
  | 0 => operandImm c.xf .ldyImm rest
  | 1 => operand8 .ldaIndX rest
  | 2 => operandImm c.xf .ldxImm rest
  | 3 => operandSr c.sr .ldaSr rest
  | 4 => operand8 .ldyDir rest
  | 5 => operand8 .ldaDir rest
  | 6 => operand8 .ldxDir rest
  | 7 => operand8 .ldaIndLong rest
  | 8 => operand0 .tay rest
  | 9 => operandImm c.m .ldaImm rest
  | 10 => operand0 .tax rest
  | 11 => operand0 .plb rest
  | 12 => operand16 .ldyAbs rest
  | 13 => operand16 .ldaAbs rest
  | 14 => operand16 .ldxAbs rest
  | _ => operand24 .ldaLong rest

/-- Opcodes 0xB0 to 0xBF (R112); the column is the low nibble. -/
def decodeRowB (_c : Ctx) (column : Nat) (rest : List Byte) : Decoded :=
  match column with
  | 0 => operand8 .bcs rest
  | 1 => operand8 .ldaIndY rest
  | 2 => operand8 .ldaInd rest
  | 3 => operand0 .ldaSrIndY rest
  | 4 => operand8 .ldyDirX rest
  | 5 => operand8 .ldaDirX rest
  | 6 => operand8 .ldxDirY rest
  | 7 => operand0 .ldaIndLongY rest
  | 8 => operand0 .clv rest
  | 9 => operand16 .ldaAbsY rest
  | 10 => operand0 .tsx rest
  | 11 => operand0 .tyx rest
  | 12 => operand16 .ldyAbsX rest
  | 13 => operand16 .ldaAbsX rest
  | 14 => operand16 .ldxAbsY rest
  | _ => operand24 .ldaLongX rest

/-- Opcodes 0xC0 to 0xCF (R112); the column is the low nibble. -/
def decodeRowC (c : Ctx) (column : Nat) (rest : List Byte) : Decoded :=
  match column with
  | 0 => operandImm c.xf .cpyImm rest
  | 1 => operand8 .cmpIndX rest
  | 2 => operand0 .rep rest
  | 3 => operandSr c.sr .cmpSr rest
  | 4 => operand8 .cpyDir rest
  | 5 => operand8 .cmpDir rest
  | 6 => operand8 .decDir rest
  | 7 => operand8 .cmpIndLong rest
  | 8 => operand0 .iny rest
  | 9 => operandImm c.m .cmpImm rest
  | 10 => operand0 .dex rest
  | 11 => operand0 .wai rest
  | 12 => operand16 .cpyAbs rest
  | 13 => operand16 .cmpAbs rest
  | 14 => operand16 .decAbs rest
  | _ => operand24 .cmpLong rest

/-- Opcodes 0xD0 to 0xDF (R112); the column is the low nibble. -/
def decodeRowD (_c : Ctx) (column : Nat) (rest : List Byte) : Decoded :=
  match column with
  | 0 => operand8 .bne rest
  | 1 => operand8 .cmpIndY rest
  | 2 => operand8 .cmpInd rest
  | 3 => operand0 .cmpSrIndY rest
  | 4 => operand0 .pei rest
  | 5 => operand8 .cmpDirX rest
  | 6 => operand8 .decDirX rest
  | 7 => operand0 .cmpIndLongY rest
  | 8 => operand0 .cld rest
  | 9 => operand16 .cmpAbsY rest
  | 10 => operand0 .phx rest
  | 11 => operand0 .stp rest
  | 12 => operand0 .jml rest
  | 13 => operand16 .cmpAbsX rest
  | 14 => operand16 .decAbsX rest
  | _ => operand24 .cmpLongX rest

/-- Opcodes 0xE0 to 0xEF (R112); the column is the low nibble. -/
def decodeRowE (c : Ctx) (column : Nat) (rest : List Byte) : Decoded :=
  match column with
  | 0 => operandImm c.xf .cpxImm rest
  | 1 => operand8 .sbcIndX rest
  | 2 => operand0 .sep rest
  | 3 => operandSr c.sr .sbcSr rest
  | 4 => operand8 .cpxDir rest
  | 5 => operand8 .sbcDir rest
  | 6 => operand8 .incDir rest
  | 7 => operand8 .sbcIndLong rest
  | 8 => operand0 .inx rest
  | 9 => operandImm c.m .sbcImm rest
  | 10 => operand0 .nop rest
  | 11 => operand0 .xba rest
  | 12 => operand16 .cpxAbs rest
  | 13 => operand16 .sbcAbs rest
  | 14 => operand16 .incAbs rest
  | _ => operand24 .sbcLong rest

/-- Opcodes 0xF0 to 0xFF (R112); the column is the low nibble. -/
def decodeRowF (_c : Ctx) (column : Nat) (rest : List Byte) : Decoded :=
  match column with
  | 0 => operand8 .beq rest
  | 1 => operand8 .sbcIndY rest
  | 2 => operand8 .sbcInd rest
  | 3 => operand0 .sbcSrIndY rest
  | 4 => operand0 .pea rest
  | 5 => operand8 .sbcDirX rest
  | 6 => operand8 .incDirX rest
  | 7 => operand0 .sbcIndLongY rest
  | 8 => operand0 .sed rest
  | 9 => operand16 .sbcAbsY rest
  | 10 => operand0 .plx rest
  | 11 => operand0 .xce rest
  | 12 => operand0 .jsrAbsIndX rest
  | 13 => operand16 .sbcAbsX rest
  | 14 => operand16 .incAbsX rest
  | _ => operand24 .sbcLongX rest

/-- Decoding one guest instruction from the front of `bytes` (R100, R112). -/
def decodeGuest (c : Ctx) : List Byte → Decoded
  | [] => .error .truncated
  | op :: rest =>
    let column := op.toNat % 16
    match op.toNat / 16 with
    | 0 => decodeRow0 c column rest
    | 1 => decodeRow1 c column rest
    | 2 => decodeRow2 c column rest
    | 3 => decodeRow3 c column rest
    | 4 => decodeRow4 c column rest
    | 5 => decodeRow5 c column rest
    | 6 => decodeRow6 c column rest
    | 7 => decodeRow7 c column rest
    | 8 => decodeRow8 c column rest
    | 9 => decodeRow9 c column rest
    | 10 => decodeRowA c column rest
    | 11 => decodeRowB c column rest
    | 12 => decodeRowC c column rest
    | 13 => decodeRowD c column rest
    | 14 => decodeRowE c column rest
    | _ => decodeRowF c column rest

/-! ### The IR node decoder (R120 to R123) -/

/-- The tag field, bits 15:0 (R120). -/
def Node.tag (w : Node) : BitVec 16 := w.extractLsb' 0 16

/-- Argument 0, bits 31:16 (R120). -/
def Node.arg0 (w : Node) : Handle := w.extractLsb' 16 16

/-- Argument 1, bits 47:32 (R120). -/
def Node.arg1 (w : Node) : Handle := w.extractLsb' 32 16

/-- Argument 2, bits 63:48 (R120). -/
def Node.arg2 (w : Node) : Handle := w.extractLsb' 48 16

/-- Decoding an IR node by its tag (R123). The constructor holds the slots the op
uses; the others are bounded where the node is evaluated (R142, log 10). -/
def decodeNode (w : Node) : Except DecodeError Instr :=
  match (Node.tag w).toNat with
  | 0 => .ok (.irConst (w.extractLsb' 16 8) (w.extractLsb' 24 8) (w.extractLsb' 32 32))
  | 1 => .ok (.irConst48 (w.extractLsb' 16 48))
  | 2 => .ok (.irNot (Node.arg0 w))
  | 3 => .ok (.irAdd (Node.arg0 w) (Node.arg1 w))
  | 4 => .ok (.irSub (Node.arg0 w) (Node.arg1 w))
  | 5 => .ok (.irAnd (Node.arg0 w) (Node.arg1 w))
  | 6 => .ok (.irOr (Node.arg0 w) (Node.arg1 w))
  | 7 => .ok (.irXor (Node.arg0 w) (Node.arg1 w))
  | 8 => .ok (.irShiftLeft (Node.arg0 w) (Node.arg1 w))
  | 9 => .ok (.irShiftRight (Node.arg0 w) (Node.arg1 w))
  | 10 => .ok (.irCat (Node.arg0 w) (Node.arg1 w))
  | 11 => .ok (.irExtract (Node.arg0 w) (Node.arg1 w) (Node.arg2 w))
  | 12 => .ok (.irZext (Node.arg0 w) (Node.arg1 w))
  | 13 => .ok (.irEq (Node.arg0 w) (Node.arg1 w))
  | 14 => .ok (.irNeq (Node.arg0 w) (Node.arg1 w))
  | 15 => .ok (.irTernary (Node.arg0 w) (Node.arg1 w) (Node.arg2 w))
  | 16 => .ok (.irMemState (Node.arg0 w) (Node.arg1 w) (Node.arg2 w))
  | 17 => .ok (.irLoad8 (Node.arg0 w) (Node.arg1 w))
  | 18 => .ok (.irLoad16 (Node.arg0 w) (Node.arg1 w))
  | 19 => .ok (.irLoad32 (Node.arg0 w) (Node.arg1 w))
  | 20 => .ok (.irLoad64 (Node.arg0 w) (Node.arg1 w))
  | 21 => .ok (.irStore8 (Node.arg0 w) (Node.arg1 w) (Node.arg2 w))
  | 22 => .ok (.irStore16 (Node.arg0 w) (Node.arg1 w) (Node.arg2 w))
  | 23 => .ok (.irStore32 (Node.arg0 w) (Node.arg1 w) (Node.arg2 w))
  | 24 => .ok (.irStore64 (Node.arg0 w) (Node.arg1 w) (Node.arg2 w))
  | 25 => .ok (.irStateRead (Node.arg0 w) (Node.arg1 w))
  | 26 => .ok (.irStateWrite (Node.arg0 w) (Node.arg1 w) (Node.arg2 w))
  | 27 => .ok (.irAssert (Node.arg0 w) (Node.arg1 w))
  | _ => .error (.unusedTag (Node.tag w))

/-! ### The encoder -/

/-- What an instruction is written as: guest bytes, or one IR node. -/
inductive Code where
  | guest (bytes : List Byte)
  | node (w : Node)
  deriving DecidableEq, Repr

/-- Decoding a whole code: exactly one instruction. -/
def decode (c : Ctx) : Code → Except DecodeError Instr
  | .guest bytes =>
    match decodeGuest c bytes with
    | .ok (i, []) => .ok i
    | .ok (_, _ :: _) => .error .trailing
    | .error e => .error e
  | .node w => decodeNode w

/-- Bits 7:0 and 15:8 of a two-byte operand, low byte first (R79). -/
def bytes16 (v : Word16) : List Byte := [v.extractLsb' 0 8, v.extractLsb' 8 8]

/-- The three bytes of a long operand, low byte first (R79). -/
def bytes24 (a : Addr) : List Byte := [a.extractLsb' 0 8, a.extractLsb' 8 8, a.extractLsb' 16 8]

/-- The bytes of an immediate (R102). -/
def bytesImm (narrow : Bool) (v : Word16) : List Byte :=
  if narrow then [v.extractLsb' 0 8] else bytes16 v

/-- The bytes of a stack-relative offset (R106). -/
def bytesSr (sr : SrOffset) (off : Word16) : List Byte :=
  match sr with
  | .oneByte => [off.extractLsb' 0 8]
  | .twoBytes => bytes16 off

/-- A node of the argument shape (R120). -/
def packNode (tag : BitVec 16) (a0 a1 a2 : Handle) : Node := ((a2 ++ a1) ++ a0) ++ tag

/-- A node of the constant shape (R121). -/
def packConst (numBits isSigned : Byte) (value : BitVec 32) : Node :=
  ((value ++ isSigned) ++ numBits) ++ (0#16)

/-- A node of the wide-immediate shape (R122). -/
def packConst48 (imm48 : BitVec 48) : Node := imm48 ++ (1#16)

/-- The words of an instruction, from the opcode map (R112) and the tag table (R123); unused argument slots hold the
sentinel (R124). -/
def encode (c : Ctx) : Instr → Code
  | .brk => .guest [0x00#8]
  | .oraIndX d => .guest (0x01#8 :: [d])
  | .cop => .guest [0x02#8]
  | .oraSr off => .guest (0x03#8 :: bytesSr c.sr off)
  | .tsbDir => .guest [0x04#8]
  | .oraDir d => .guest (0x05#8 :: [d])
  | .aslDir d => .guest (0x06#8 :: [d])
  | .oraIndLong d => .guest (0x07#8 :: [d])
  | .php => .guest [0x08#8]
  | .oraImm v => .guest (0x09#8 :: bytesImm c.m v)
  | .aslAcc => .guest [0x0A#8]
  | .phd => .guest [0x0B#8]
  | .tsbAbs => .guest [0x0C#8]
  | .oraAbs a => .guest (0x0D#8 :: bytes16 a)
  | .aslAbs a => .guest (0x0E#8 :: bytes16 a)
  | .oraLong a => .guest (0x0F#8 :: bytes24 a)
  | .bpl d => .guest (0x10#8 :: [d])
  | .oraIndY d => .guest (0x11#8 :: [d])
  | .oraInd d => .guest (0x12#8 :: [d])
  | .oraSrIndY => .guest [0x13#8]
  | .trbDir => .guest [0x14#8]
  | .oraDirX d => .guest (0x15#8 :: [d])
  | .aslDirX d => .guest (0x16#8 :: [d])
  | .oraIndLongY => .guest [0x17#8]
  | .clc => .guest [0x18#8]
  | .oraAbsY a => .guest (0x19#8 :: bytes16 a)
  | .incAcc => .guest [0x1A#8]
  | .tcs => .guest [0x1B#8]
  | .trbAbs => .guest [0x1C#8]
  | .oraAbsX a => .guest (0x1D#8 :: bytes16 a)
  | .aslAbsX a => .guest (0x1E#8 :: bytes16 a)
  | .oraLongX a => .guest (0x1F#8 :: bytes24 a)
  | .jsrAbs a => .guest (0x20#8 :: bytes16 a)
  | .andIndX d => .guest (0x21#8 :: [d])
  | .jsl => .guest [0x22#8]
  | .andSr off => .guest (0x23#8 :: bytesSr c.sr off)
  | .bitDir d => .guest (0x24#8 :: [d])
  | .andDir d => .guest (0x25#8 :: [d])
  | .rolDir d => .guest (0x26#8 :: [d])
  | .andIndLong d => .guest (0x27#8 :: [d])
  | .plp => .guest [0x28#8]
  | .andImm v => .guest (0x29#8 :: bytesImm c.m v)
  | .rolAcc => .guest [0x2A#8]
  | .pld => .guest [0x2B#8]
  | .bitAbs a => .guest (0x2C#8 :: bytes16 a)
  | .andAbs a => .guest (0x2D#8 :: bytes16 a)
  | .rolAbs a => .guest (0x2E#8 :: bytes16 a)
  | .andLong a => .guest (0x2F#8 :: bytes24 a)
  | .bmi d => .guest (0x30#8 :: [d])
  | .andIndY d => .guest (0x31#8 :: [d])
  | .andInd d => .guest (0x32#8 :: [d])
  | .andSrIndY => .guest [0x33#8]
  | .bitDirX d => .guest (0x34#8 :: [d])
  | .andDirX d => .guest (0x35#8 :: [d])
  | .rolDirX d => .guest (0x36#8 :: [d])
  | .andIndLongY => .guest [0x37#8]
  | .sec => .guest [0x38#8]
  | .andAbsY a => .guest (0x39#8 :: bytes16 a)
  | .decAcc => .guest [0x3A#8]
  | .tsc => .guest [0x3B#8]
  | .bitAbsX a => .guest (0x3C#8 :: bytes16 a)
  | .andAbsX a => .guest (0x3D#8 :: bytes16 a)
  | .rolAbsX a => .guest (0x3E#8 :: bytes16 a)
  | .andLongX a => .guest (0x3F#8 :: bytes24 a)
  | .rti => .guest [0x40#8]
  | .eorIndX d => .guest (0x41#8 :: [d])
  | .wdm => .guest [0x42#8]
  | .eorSr off => .guest (0x43#8 :: bytesSr c.sr off)
  | .mvp => .guest [0x44#8]
  | .eorDir d => .guest (0x45#8 :: [d])
  | .lsrDir d => .guest (0x46#8 :: [d])
  | .eorIndLong d => .guest (0x47#8 :: [d])
  | .pha => .guest [0x48#8]
  | .eorImm v => .guest (0x49#8 :: bytesImm c.m v)
  | .lsrAcc => .guest [0x4A#8]
  | .phk => .guest [0x4B#8]
  | .jmpAbs a => .guest (0x4C#8 :: bytes16 a)
  | .eorAbs a => .guest (0x4D#8 :: bytes16 a)
  | .lsrAbs a => .guest (0x4E#8 :: bytes16 a)
  | .eorLong a => .guest (0x4F#8 :: bytes24 a)
  | .bvc d => .guest (0x50#8 :: [d])
  | .eorIndY d => .guest (0x51#8 :: [d])
  | .eorInd d => .guest (0x52#8 :: [d])
  | .eorSrIndY => .guest [0x53#8]
  | .mvn => .guest [0x54#8]
  | .eorDirX d => .guest (0x55#8 :: [d])
  | .lsrDirX d => .guest (0x56#8 :: [d])
  | .eorIndLongY => .guest [0x57#8]
  | .cli => .guest [0x58#8]
  | .eorAbsY a => .guest (0x59#8 :: bytes16 a)
  | .phy => .guest [0x5A#8]
  | .tcd => .guest [0x5B#8]
  | .jmpLong a => .guest (0x5C#8 :: bytes24 a)
  | .eorAbsX a => .guest (0x5D#8 :: bytes16 a)
  | .lsrAbsX a => .guest (0x5E#8 :: bytes16 a)
  | .eorLongX a => .guest (0x5F#8 :: bytes24 a)
  | .rts => .guest [0x60#8]
  | .adcIndX d => .guest (0x61#8 :: [d])
  | .per => .guest [0x62#8]
  | .adcSr off => .guest (0x63#8 :: bytesSr c.sr off)
  | .stzDir d => .guest (0x64#8 :: [d])
  | .adcDir d => .guest (0x65#8 :: [d])
  | .rorDir d => .guest (0x66#8 :: [d])
  | .adcIndLong d => .guest (0x67#8 :: [d])
  | .pla => .guest [0x68#8]
  | .adcImm v => .guest (0x69#8 :: bytesImm c.m v)
  | .rorAcc => .guest [0x6A#8]
  | .rtl => .guest [0x6B#8]
  | .jmpAbsInd a => .guest (0x6C#8 :: bytes16 a)
  | .adcAbs a => .guest (0x6D#8 :: bytes16 a)
  | .rorAbs a => .guest (0x6E#8 :: bytes16 a)
  | .adcLong a => .guest (0x6F#8 :: bytes24 a)
  | .bvs d => .guest (0x70#8 :: [d])
  | .adcIndY d => .guest (0x71#8 :: [d])
  | .adcInd d => .guest (0x72#8 :: [d])
  | .adcSrIndY => .guest [0x73#8]
  | .stzDirX d => .guest (0x74#8 :: [d])
  | .adcDirX d => .guest (0x75#8 :: [d])
  | .rorDirX d => .guest (0x76#8 :: [d])
  | .adcIndLongY => .guest [0x77#8]
  | .sei => .guest [0x78#8]
  | .adcAbsY a => .guest (0x79#8 :: bytes16 a)
  | .ply => .guest [0x7A#8]
  | .tdc => .guest [0x7B#8]
  | .jmpAbsIndX => .guest [0x7C#8]
  | .adcAbsX a => .guest (0x7D#8 :: bytes16 a)
  | .rorAbsX a => .guest (0x7E#8 :: bytes16 a)
  | .adcLongX a => .guest (0x7F#8 :: bytes24 a)
  | .bra d => .guest (0x80#8 :: [d])
  | .staIndX d => .guest (0x81#8 :: [d])
  | .brl => .guest [0x82#8]
  | .staSr off => .guest (0x83#8 :: bytesSr c.sr off)
  | .styDir d => .guest (0x84#8 :: [d])
  | .staDir d => .guest (0x85#8 :: [d])
  | .stxDir d => .guest (0x86#8 :: [d])
  | .staIndLong d => .guest (0x87#8 :: [d])
  | .dey => .guest [0x88#8]
  | .bitImm v => .guest (0x89#8 :: bytesImm c.m v)
  | .txa => .guest [0x8A#8]
  | .phb => .guest [0x8B#8]
  | .styAbs a => .guest (0x8C#8 :: bytes16 a)
  | .staAbs a => .guest (0x8D#8 :: bytes16 a)
  | .stxAbs a => .guest (0x8E#8 :: bytes16 a)
  | .staLong a => .guest (0x8F#8 :: bytes24 a)
  | .bcc d => .guest (0x90#8 :: [d])
  | .staIndY d => .guest (0x91#8 :: [d])
  | .staInd d => .guest (0x92#8 :: [d])
  | .staSrIndY => .guest [0x93#8]
  | .styDirX d => .guest (0x94#8 :: [d])
  | .staDirX d => .guest (0x95#8 :: [d])
  | .stxDirY d => .guest (0x96#8 :: [d])
  | .staIndLongY => .guest [0x97#8]
  | .tya => .guest [0x98#8]
  | .staAbsY a => .guest (0x99#8 :: bytes16 a)
  | .txs => .guest [0x9A#8]
  | .txy => .guest [0x9B#8]
  | .stzAbs a => .guest (0x9C#8 :: bytes16 a)
  | .staAbsX a => .guest (0x9D#8 :: bytes16 a)
  | .stzAbsX a => .guest (0x9E#8 :: bytes16 a)
  | .staLongX a => .guest (0x9F#8 :: bytes24 a)
  | .ldyImm v => .guest (0xA0#8 :: bytesImm c.xf v)
  | .ldaIndX d => .guest (0xA1#8 :: [d])
  | .ldxImm v => .guest (0xA2#8 :: bytesImm c.xf v)
  | .ldaSr off => .guest (0xA3#8 :: bytesSr c.sr off)
  | .ldyDir d => .guest (0xA4#8 :: [d])
  | .ldaDir d => .guest (0xA5#8 :: [d])
  | .ldxDir d => .guest (0xA6#8 :: [d])
  | .ldaIndLong d => .guest (0xA7#8 :: [d])
  | .tay => .guest [0xA8#8]
  | .ldaImm v => .guest (0xA9#8 :: bytesImm c.m v)
  | .tax => .guest [0xAA#8]
  | .plb => .guest [0xAB#8]
  | .ldyAbs a => .guest (0xAC#8 :: bytes16 a)
  | .ldaAbs a => .guest (0xAD#8 :: bytes16 a)
  | .ldxAbs a => .guest (0xAE#8 :: bytes16 a)
  | .ldaLong a => .guest (0xAF#8 :: bytes24 a)
  | .bcs d => .guest (0xB0#8 :: [d])
  | .ldaIndY d => .guest (0xB1#8 :: [d])
  | .ldaInd d => .guest (0xB2#8 :: [d])
  | .ldaSrIndY => .guest [0xB3#8]
  | .ldyDirX d => .guest (0xB4#8 :: [d])
  | .ldaDirX d => .guest (0xB5#8 :: [d])
  | .ldxDirY d => .guest (0xB6#8 :: [d])
  | .ldaIndLongY => .guest [0xB7#8]
  | .clv => .guest [0xB8#8]
  | .ldaAbsY a => .guest (0xB9#8 :: bytes16 a)
  | .tsx => .guest [0xBA#8]
  | .tyx => .guest [0xBB#8]
  | .ldyAbsX a => .guest (0xBC#8 :: bytes16 a)
  | .ldaAbsX a => .guest (0xBD#8 :: bytes16 a)
  | .ldxAbsY a => .guest (0xBE#8 :: bytes16 a)
  | .ldaLongX a => .guest (0xBF#8 :: bytes24 a)
  | .cpyImm v => .guest (0xC0#8 :: bytesImm c.xf v)
  | .cmpIndX d => .guest (0xC1#8 :: [d])
  | .rep => .guest [0xC2#8]
  | .cmpSr off => .guest (0xC3#8 :: bytesSr c.sr off)
  | .cpyDir d => .guest (0xC4#8 :: [d])
  | .cmpDir d => .guest (0xC5#8 :: [d])
  | .decDir d => .guest (0xC6#8 :: [d])
  | .cmpIndLong d => .guest (0xC7#8 :: [d])
  | .iny => .guest [0xC8#8]
  | .cmpImm v => .guest (0xC9#8 :: bytesImm c.m v)
  | .dex => .guest [0xCA#8]
  | .wai => .guest [0xCB#8]
  | .cpyAbs a => .guest (0xCC#8 :: bytes16 a)
  | .cmpAbs a => .guest (0xCD#8 :: bytes16 a)
  | .decAbs a => .guest (0xCE#8 :: bytes16 a)
  | .cmpLong a => .guest (0xCF#8 :: bytes24 a)
  | .bne d => .guest (0xD0#8 :: [d])
  | .cmpIndY d => .guest (0xD1#8 :: [d])
  | .cmpInd d => .guest (0xD2#8 :: [d])
  | .cmpSrIndY => .guest [0xD3#8]
  | .pei => .guest [0xD4#8]
  | .cmpDirX d => .guest (0xD5#8 :: [d])
  | .decDirX d => .guest (0xD6#8 :: [d])
  | .cmpIndLongY => .guest [0xD7#8]
  | .cld => .guest [0xD8#8]
  | .cmpAbsY a => .guest (0xD9#8 :: bytes16 a)
  | .phx => .guest [0xDA#8]
  | .stp => .guest [0xDB#8]
  | .jml => .guest [0xDC#8]
  | .cmpAbsX a => .guest (0xDD#8 :: bytes16 a)
  | .decAbsX a => .guest (0xDE#8 :: bytes16 a)
  | .cmpLongX a => .guest (0xDF#8 :: bytes24 a)
  | .cpxImm v => .guest (0xE0#8 :: bytesImm c.xf v)
  | .sbcIndX d => .guest (0xE1#8 :: [d])
  | .sep => .guest [0xE2#8]
  | .sbcSr off => .guest (0xE3#8 :: bytesSr c.sr off)
  | .cpxDir d => .guest (0xE4#8 :: [d])
  | .sbcDir d => .guest (0xE5#8 :: [d])
  | .incDir d => .guest (0xE6#8 :: [d])
  | .sbcIndLong d => .guest (0xE7#8 :: [d])
  | .inx => .guest [0xE8#8]
  | .sbcImm v => .guest (0xE9#8 :: bytesImm c.m v)
  | .nop => .guest [0xEA#8]
  | .xba => .guest [0xEB#8]
  | .cpxAbs a => .guest (0xEC#8 :: bytes16 a)
  | .sbcAbs a => .guest (0xED#8 :: bytes16 a)
  | .incAbs a => .guest (0xEE#8 :: bytes16 a)
  | .sbcLong a => .guest (0xEF#8 :: bytes24 a)
  | .beq d => .guest (0xF0#8 :: [d])
  | .sbcIndY d => .guest (0xF1#8 :: [d])
  | .sbcInd d => .guest (0xF2#8 :: [d])
  | .sbcSrIndY => .guest [0xF3#8]
  | .pea => .guest [0xF4#8]
  | .sbcDirX d => .guest (0xF5#8 :: [d])
  | .incDirX d => .guest (0xF6#8 :: [d])
  | .sbcIndLongY => .guest [0xF7#8]
  | .sed => .guest [0xF8#8]
  | .sbcAbsY a => .guest (0xF9#8 :: bytes16 a)
  | .plx => .guest [0xFA#8]
  | .xce => .guest [0xFB#8]
  | .jsrAbsIndX => .guest [0xFC#8]
  | .sbcAbsX a => .guest (0xFD#8 :: bytes16 a)
  | .incAbsX a => .guest (0xFE#8 :: bytes16 a)
  | .sbcLongX a => .guest (0xFF#8 :: bytes24 a)
  | .irConst numBits isSigned value => .node (packConst numBits isSigned value)
  | .irConst48 imm48 => .node (packConst48 imm48)
  | .irNot a => .node (packNode 2#16 a sentinel sentinel)
  | .irAdd a b => .node (packNode 3#16 a b sentinel)
  | .irSub a b => .node (packNode 4#16 a b sentinel)
  | .irAnd a b => .node (packNode 5#16 a b sentinel)
  | .irOr a b => .node (packNode 6#16 a b sentinel)
  | .irXor a b => .node (packNode 7#16 a b sentinel)
  | .irShiftLeft a b => .node (packNode 8#16 a b sentinel)
  | .irShiftRight a b => .node (packNode 9#16 a b sentinel)
  | .irCat a b => .node (packNode 10#16 a b sentinel)
  | .irExtract a b d => .node (packNode 11#16 a b d)
  | .irZext a b => .node (packNode 12#16 a b sentinel)
  | .irEq a b => .node (packNode 13#16 a b sentinel)
  | .irNeq a b => .node (packNode 14#16 a b sentinel)
  | .irTernary a b d => .node (packNode 15#16 a b d)
  | .irMemState a b d => .node (packNode 16#16 a b d)
  | .irLoad8 a b => .node (packNode 17#16 a b sentinel)
  | .irLoad16 a b => .node (packNode 18#16 a b sentinel)
  | .irLoad32 a b => .node (packNode 19#16 a b sentinel)
  | .irLoad64 a b => .node (packNode 20#16 a b sentinel)
  | .irStore8 a b d => .node (packNode 21#16 a b d)
  | .irStore16 a b d => .node (packNode 22#16 a b d)
  | .irStore32 a b d => .node (packNode 23#16 a b d)
  | .irStore64 a b d => .node (packNode 24#16 a b d)
  | .irStateRead a b => .node (packNode 25#16 a b sentinel)
  | .irStateWrite a b d => .node (packNode 26#16 a b d)
  | .irAssert a b => .node (packNode 27#16 a b sentinel)

/-! ### Words numbered as the opcode table numbers them -/

/-- Is a table word of `nbits` bits an IR node? The table gives an IR row 64 bits (its mask) or 16 (its tag), a guest row 8
(its opcode byte). A 16-bit word is a node exactly when it is a tag of R123 (log 15). -/
def isNodeWord (nbits w : Nat) : Bool := nbits > 32 || (nbits > 8 && nbits ≤ 16 && w < 28)

/-- The bytes of a guest table word, lowest byte first, up to the longest instruction (four bytes, R101). -/
def wordBytes (w : Nat) : List Byte :=
  [BitVec.ofNat 8 w, BitVec.ofNat 8 (w / 256), BitVec.ofNat 8 (w / 65536), BitVec.ofNat 8 (w / 16777216)]

/-- The decoding context of the launch state: M = 1, X_flag = 1, a two-byte stack-relative offset (R553, D43). -/
def launchCtx : Ctx := { m := true, xf := true, sr := .twoBytes }

/-- The instruction the decoder reads from a table word; bits above `nbits` are 0. -/
def decodeTableWord (nbits w : Nat) : Option Instr :=
  if isNodeWord nbits w then
    match decodeNode (BitVec.ofNat 64 w) with
    | .ok i => some i
    | .error _ => none
  else
    match decodeGuest launchCtx (wordBytes w) with
    | .ok (i, _) => some i
    | .error _ => none

end Sys2Proof
end

