-- ==== Sys2Proof/Machine/State.lean ====
section
/-! DEFINITION. The state of the block as plain data: the register file (10_state.md R30), guest memory (20_memory.md R70), the
state namespace (40_ir.md R181), the hidden state of the block in progress (10_state.md R57) and the parameters
(00_scope.md R11); the reasons a step can stop (60_exceptions.md R500); the launch and reset states
(70_reset_and_hazards.md R550, R553). -/

namespace Sys2Proof.Machine

/-- The register file: one field a slot of R30, in ordinal order. `xf` is X_flag, `df` D_flag (R15). -/
structure Regs where
  a : Byte
  b : Byte
  d : Word16
  x : Word16
  y : Word16
  s : Word16
  pc : Word16
  pbr : Byte
  dbr : Byte
  n : Bool
  v : Bool
  m : Bool
  xf : Bool
  df : Bool
  i : Bool
  z : Bool
  c : Bool
  e : Bool
  cycle : BitVec 64
  deriving DecidableEq, Repr

/-- A sparse byte array: (address, byte) pairs in canonical form (see `Memory.wf`); an unlisted address reads 0 (D42,
log 2). -/
abbrev Memory := List Host.Cell

/-- What the interpreter assigns to a handle: a value and a width (R160). -/
structure IrVal where
  val : BitVec 64
  wid : Nat
  deriving DecidableEq, Repr

/-- The Emitter of the block in progress (R57, R200 to R216), less the arena, the values and `ending`, which State
holds. -/
structure Emitter where
  /-- The register-state map, in slot order (R201). -/
  regMap : Vector Handle 19
  /-- The handle each slot's prologue load produced (R216, R217). -/
  prologue : Vector Handle 19
  /-- The memory-conditional predicate (R206). -/
  pred : Handle
  /-- The zero-chain stash (R212). -/
  zeroChain : Option Handle
  /-- The constant memo table, keyed by (value, width) (R203). -/
  memo : List ((Nat × Nat) × Handle)
  /-- `initializer_end_marker`: the arena length after the prologue (R216). -/
  endMarker : Nat
  /-- The block's start PC (R216). -/
  startPc : Word16
  /-- The block's start PBR (R216). -/
  startPbr : Byte
  deriving DecidableEq, Repr

/-- The whole state. -/
structure State where
  /-- The parameters of R11; no step changes them (log 3). -/
  cfg : Config
  /-- The register file (R30); the single copy of CPU state at the guest level (R34), bus 0 for IR nodes (R33). -/
  r : Regs
  /-- Guest memory (R70), bus 1. -/
  mem : Memory
  /-- The state namespace of StateRead and StateWrite (R181). -/
  aux : Memory
  /-- The arena of the block in progress (R140). -/
  arena : List Node
  /-- The value array (R160); its length is the partial-interpretation offset (R162). -/
  vals : List IrVal
  /-- The Emitter of the block in progress, if one is open (R200). -/
  em : Option Emitter
  /-- `ending` (R214): the last instruction was a branch, jump or return. -/
  ending : Bool
  deriving DecidableEq, Repr

/-- Was the access that faulted a read (fetches included) or a write (R500). -/
inductive Access where
  | read
  | write
  deriving DecidableEq, Repr

/-- Why a node is malformed (R190 and the rules it names). -/
inductive IrReason where
  /-- A used argument slot at or beyond the node being evaluated, the sentinel included, or an unused one other than the
  sentinel (R142, R190). -/
  | badHandle
  /-- A handle that must be a Const node is not (R126). -/
  | notConst
  /-- A result width outside 0 to 64, a Const width not of R121, or a MemState predicate wider than one bit (R163, R171, R173,
  R179, R190). -/
  | badWidth
  /-- A ShiftRight by more than the width, an Extract past it, or a Zext below it (R172, R174, R175). -/
  | badRange
  /-- A MemState bus other than 0 and 1 (R179). -/
  | badBus
  /-- A memory op whose first argument is no MemState node (R180, log 16). -/
  | notMemState
  /-- A register-bus address above 18 (R185, R186). -/
  | badRegister
  /-- Const48 is reserved (R164). -/
  | reservedConst48
  /-- A tag of 28 or more (R123). -/
  | unusedTag
  /-- A node past P_ARENA_CAP (R12). -/
  | arenaFull
  deriving DecidableEq, Repr

/-- The faults of R500. One raised by `step` holds the guest state at the fault, that after the last completed access (R505,
log 7); one that `driverStep` raises while building or interpreting holds the block's launch registers (log 24). The names of
the faults are the spec's own, and all are safe: the run ends there. -/
inductive Fault where
  /-- Code 1 (R501): raised by the meanings of the 38 opcodes of R113, with the opcode byte and {PBR, PC}. Safe. -/
  | unimplementedOpcode (opcode : Byte) (addr : Addr) (st : State)
  /-- Code 2 (R502): raised by Assert when its operands differ, with the address its value was loaded from (none when the
  value is no load), the expected value and the one found. Safe; `driverStep` recovers from it by lifting again. -/
  | assertFailure (addr : Option Addr) (expected found : BitVec 64) (st : State)
  /-- Code 3 (R503): raised by an IR node or its construction, with the node's index and the reason. Safe. -/
  | structuralIr (node : Nat) (reason : IrReason) (st : State)
  /-- Code 4 (R504): raised by every guest-memory access at or above P_MEM_BYTES, fetches included. Safe. -/
  | outOfRangeMemory (addr : Addr) (access : Access) (st : State)
  deriving DecidableEq, Repr

/-- The fault codes of R500. -/
def Fault.code : Fault → Nat
  | .unimplementedOpcode .. => 1
  | .assertFailure .. => 2
  | .structuralIr .. => 3
  | .outOfRangeMemory .. => 4

/-- Only AssertFailure is recoverable, by lifting again; every other fault is fatal (R500, R506). -/
def Fault.recoverable : Fault → Bool
  | .unimplementedOpcode .. => false
  | .assertFailure .. => true
  | .structuralIr .. => false
  | .outOfRangeMemory .. => false

/-- What the model answers where it gives an instruction no meaning. -/
inductive Refusal where
  /-- An instruction of the table without a meaning yet, by its mnemonic; raised by exec's arms only. Safe. -/
  | notModelled (mnemonic : String)
  /-- Raised by `step` if the decoder rejected bytes of the length the opcode map gives; no bytes do. Safe. -/
  | undecodable (why : DecodeError)
  deriving DecidableEq, Repr

/-- The register file of the reference launch state (R553): E = M = X_flag = 1, PBR = 0, PC = 0xC000, S = 0x01FD,
CYCLE = 0, every other slot 0. DESIGN CHOICE, unsafe (log 1): the spec leaves P_INIT_REGS open. -/
def Regs.reference : Regs :=
  { a := 0x00#8, b := 0x00#8, d := 0x0000#16, x := 0x0000#16, y := 0x0000#16, s := 0x01FD#16
    pc := 0xC000#16, pbr := 0x00#8, dbr := 0x00#8
    n := false, v := false, m := true, xf := true, df := false, i := false, z := false, c := false, e := true
    cycle := 0#64 }

/-- The state at launch: the host supplies the parameters, P_INIT_REGS and P_INIT_MEM (R550, R551, R554); no block is in
progress (log 17) and the state namespace lists nothing (log 9). -/
def State.launch (cfg : Config) (regs : Regs) (mem : Memory) : State :=
  { cfg := cfg, r := regs, mem := mem, aux := [], arena := [], vals := [], em := none, ending := false }

/-- The machine right after reset: the default parameters of R11, the reference launch registers of R553 and memory with
nothing listed (R550, log 1, log 2). -/
def State.reset : State := State.launch Config.default Regs.reference []

end Sys2Proof.Machine
end

