-- ==== Sys2Proof/Machine/Bits.lean ====
section
/-! DEFINITION. Bit fields, concatenation, extension and the wrap rules of addresses (00_scope.md R13, R14; 20_memory.md R80,
R82; 42_addressing.md R241, R242). -/

namespace Sys2Proof.Machine

/-- `v[7:0]`. -/
def lo8 (v : Word16) : Byte := v.extractLsb' 0 8

/-- `v[15:8]`. -/
def hi8 (v : Word16) : Byte := v.extractLsb' 8 8

/-- `{hi, lo}` (R13). -/
def cat16 (hi lo : Byte) : Word16 := hi ++ lo

/-- `{bank, off}` (R70). -/
def mkAddr (bank : Byte) (off : Word16) : Addr := bank ++ off

/-- `zext_16` of a byte (R14). -/
def zext16 (v : Byte) : Word16 := v.setWidth 16

/-- `zext_24` of an index (R246). -/
def zext24 (v : Word16) : Addr := v.setWidth 24

/-- `sext_16` of a displacement (R105, R480). -/
def sext16 (v : Byte) : Word16 := v.signExtend 16

/-- `wrapAdd(base, inc, flag)` (R241): when the flag is set the high byte stays that of the base. -/
def wrapAdd (base inc : Word16) (flag : Bool) : Word16 :=
  if flag then cat16 (hi8 base) (lo8 (base + inc)) else base + inc

/-- `cross(b, i)` (R242): does adding the index change the high byte? -/
def cross (b i : Word16) : Bool := hi8 b != hi8 (b + i)

/-- A data width of 8 or 16 bits (R19). -/
inductive Width where
  | w8
  | w16
  deriving DecidableEq, Repr

/-- The width a width flag selects: 8 when it is 1 (R61). -/
def widthOf (flag : Bool) : Width := if flag then .w8 else .w16

/-- A flag as a number. -/
def bit (f : Bool) : Nat := if f then 1 else 0

end Sys2Proof.Machine
end

