-- ==== Sys2Proof/Machine/Flags.lean ====
section
/-! DEFINITION. Every flag computation of 43_helpers.md sections 1 to 4: N and Z, add with carry and overflow, compare,
shifts, rotates, increments, and the processor status byte. All are pure functions of values or of the register file. -/

namespace Sys2Proof.Machine

/-! ### N and Z (R270, R271) -/

/-- `setNZ(v, 8)`. -/
def setNZ8 (v : Byte) (r : Regs) : Regs := { r with n := v.getLsbD 7, z := v == 0#8 }

/-- `setNZ(v, 16)`. -/
def setNZ16 (v : Word16) (r : Regs) : Regs := { r with n := v.getLsbD 15, z := v == 0#16 }

/-- `setNZ(v, w)`: only the low `w` bits are looked at (R271, R272). -/
def setNZ (w : Width) (v : Word16) (r : Regs) : Regs :=
  match w with
  | .w8 => setNZ8 (lo8 v) r
  | .w16 => setNZ16 v r

/-! ### Add, subtract, compare (R273 to R277) -/

/-- A sum with its carry and signed overflow. -/
structure Sum (w : Nat) where
  res : BitVec w
  carry : Bool
  overflow : Bool
  deriving DecidableEq, Repr

/-- `add_carry_overflow(dst, val)` at 8 bits with carry-in `c`, through a 9-bit sum (R273). -/
def addCarry (dst val : Byte) (c : Bool) : Sum 8 :=
  let out := dst.setWidth 9 + val.setWidth 9 + BitVec.ofNat 9 (bit c)
  { res := out.setWidth 8
    carry := out.getLsbD 8
    overflow := (dst.getLsbD 7 ^^ out.getLsbD 7) && (val.getLsbD 7 ^^ out.getLsbD 7) }

/-- `add16`: the low halves, then the high halves with the carry of the low (R275). -/
def addCarry16 (dst val : Word16) (c : Bool) : Sum 16 :=
  let low := addCarry (lo8 dst) (lo8 val) c
  let high := addCarry (hi8 dst) (hi8 val) low.carry
  { res := cat16 high.res low.res, carry := high.carry, overflow := high.overflow }

/-- The sum at a width, as a 16-bit value whose low `w` bits are significant. -/
def addAt (w : Width) (dst val : Word16) (c : Bool) : Sum 16 :=
  match w with
  | .w8 =>
    let s := addCarry (lo8 dst) (lo8 val) c
    { res := zext16 s.res, carry := s.carry, overflow := s.overflow }
  | .w16 => addCarry16 dst val c

/-- `compare` at a width: subtract with borrow-in 1, sets N, Z and C, writes neither V nor the operand (R276, R277). -/
def compareAt (w : Width) (dst val : Word16) (r : Regs) : Regs :=
  let s := addAt w dst (~~~val) true
  { setNZ w s.res r with c := s.carry }

/-! ### Shifts, rotates, increment, decrement (R278, R279) -/

/-- The six read-modify-write operations (R340). -/
inductive RmwOp where
  | asl | rol | lsr | ror | inc | dec
  deriving DecidableEq, Repr

/-- Result and C of a read-modify-write operation at any width; INC and DEC keep C (R278, R279). -/
def RmwOp.apply {w : Nat} (op : RmwOp) (v : BitVec w) (c : Bool) : BitVec w × Bool :=
  match op with
  | .asl => (v <<< 1, v.getLsbD (w - 1))
  | .rol => ((v <<< 1) ||| BitVec.ofNat w (bit c), v.getLsbD (w - 1))
  | .lsr => (v >>> 1, v.getLsbD 0)
  | .ror => ((v >>> 1) ||| (BitVec.ofNat w (bit c) <<< (w - 1)), v.getLsbD 0)
  | .inc => (v + 1, c)
  | .dec => (v - 1, c)

/-- The operation at a data width: result as 16 bits, and C. -/
def RmwOp.at (op : RmwOp) (w : Width) (v : Word16) (c : Bool) : Word16 × Bool :=
  match w with
  | .w8 => (zext16 (op.apply (lo8 v) c).1, (op.apply (lo8 v) c).2)
  | .w16 => op.apply v c

/-- The flags a read-modify-write operation leaves: C, then N and Z of the result (R271, R278, R279). -/
def rmwFlags (op : RmwOp) (w : Width) (v : Word16) (r : Regs) : Regs :=
  setNZ w (op.at w v r.c).1 { r with c := (op.at w v r.c).2 }

/-! ### The processor status byte (R280 to R282) -/

/-- `pack_flags()`: N V M X D I Z C from bit 7 to bit 0, M and X as 1 when E is set (R281). -/
def packFlags (r : Regs) : Byte :=
  BitVec.ofNat 8 (bit r.n * 128 + bit r.v * 64 + bit (r.e || r.m) * 32 + bit (r.e || r.xf) * 16
    + bit r.df * 8 + bit r.i * 4 + bit r.z * 2 + bit r.c)

/-- `unpack_flags(p)`: M and X_flag only when E is clear; E never; the registers keep their high bytes (R282). -/
def unpackFlags (p : Byte) (r : Regs) : Regs :=
  { r with
    n := p.getLsbD 7, v := p.getLsbD 6
    m := if r.e then r.m else p.getLsbD 5
    xf := if r.e then r.xf else p.getLsbD 4
    df := p.getLsbD 3, i := p.getLsbD 2, z := p.getLsbD 1, c := p.getLsbD 0 }

end Sys2Proof.Machine
end

