-- ==== Sys2Proof/Machine/Ops.lean ====
section
/-! DEFINITION. The named operations over registers and memory: register views (43_helpers.md R283 to R287), the stack step
(R288), the byte array and its canonical form, and the guest-level primitives MemRead, MemWrite, IO and FetchPC as
computations that may fault (00_scope.md R16, R17; 20_memory.md R73, R74). -/

namespace Sys2Proof.Machine

/-! ### Memory as data -/

/-- The byte at an address; an unlisted address reads 0 (log 2, log 9). -/
def Memory.read : Memory → Nat → Byte
  | [], _ => 0#8
  | (k, b) :: rest, a => if k = a then b else Memory.read rest a

/-- Listing a byte at its place in the order, replacing the one there. -/
def Memory.insert : Memory → Nat → Byte → Memory
  | [], a, v => [(a, v)]
  | (k, b) :: rest, a, v =>
    if a < k then (a, v) :: (k, b) :: rest
    else if k = a then (a, v) :: rest
    else (k, b) :: Memory.insert rest a v

/-- Unlisting an address. -/
def Memory.erase : Memory → Nat → Memory
  | [], _ => []
  | (k, b) :: rest, a => if k = a then Memory.erase rest a else (k, b) :: Memory.erase rest a

/-- Writing a byte: 0 unlists the address, so equal memories stay equal data. -/
def Memory.write (m : Memory) (a : Nat) (v : Byte) : Memory :=
  if v = 0#8 then Memory.erase m a else Memory.insert m a v

/-- Are the addresses strictly rising from above `low`, and no listed byte 0? -/
def Memory.wfFrom : Option Nat → Memory → Bool
  | _, [] => true
  | low, (k, b) :: rest =>
    (match low with | none => true | some l => decide (l < k)) && (b != 0#8) && Memory.wfFrom (some k) rest

/-- The canonical form: addresses strictly rising, no entry equal to what an unlisted address reads as. -/
def Memory.wf (m : Memory) : Bool := Memory.wfFrom none m

/-! ### Register views (R283 to R287) -/

/-- `loadReg16(A)`: always `{B, A}` (R283). -/
def loadA (r : Regs) : Word16 := cat16 r.b r.a

/-- `storeReg16(A, v, force16)`: B only when forced or M = 0 (R284). -/
def storeA (force16 : Bool) (v : Word16) (r : Regs) : Regs :=
  { r with a := lo8 v, b := if force16 || !r.m then hi8 v else r.b }

/-- The two index registers. -/
inductive Idx where
  | x
  | y
  deriving DecidableEq, Repr

/-- The stored 16 bits of an index register (R37). -/
def Idx.raw (i : Idx) (r : Regs) : Word16 :=
  match i with
  | .x => r.x
  | .y => r.y

/-- `loadReg16(X | Y)`: the low byte zero-extended when X_flag is set (R285). -/
def loadIdx (i : Idx) (r : Regs) : Word16 :=
  if r.xf then zext16 (lo8 (i.raw r)) else i.raw r

/-- `storeReg16(X | Y, v)`: the high byte is kept when X_flag is set (R286). -/
def storeIdx (i : Idx) (v : Word16) (r : Regs) : Regs :=
  let kept := if r.xf then cat16 (hi8 (i.raw r)) (lo8 v) else v
  match i with
  | .x => { r with x := kept }
  | .y => { r with y := kept }

/-- The emulation-mode stack-page lock: high byte 0x01 when E is set (R287, R288). -/
def stackLock (e : Bool) (v : Word16) : Word16 := if e then cat16 0x01#8 (lo8 v) else v

/-- `storeReg16(S, v)` (R287). -/
def storeS (v : Word16) (r : Regs) : Regs := { r with s := stackLock r.e v }

/-- wA, the accumulator width (R19, R61). -/
def widthA (r : Regs) : Width := widthOf r.m

/-- wX, the index width (R19, R61). -/
def widthX (r : Regs) : Width := widthOf r.xf

/-! ### Guest-level computations -/

/-- A guest-level computation: it goes on with a value and a state, or faults (R18). -/
abbrev Exec := EStateM Fault State

/-- The register file. -/
def readR : Exec Regs := fun s => .ok s.r s

/-- A change of the register file. -/
def modR (f : Regs → Regs) : Exec Unit := fun s => .ok () { s with r := f s.r }

/-- `CYCLE <- CYCLE + n` (R208). -/
def Regs.tick (n : Nat) (r : Regs) : Regs := { r with cycle := r.cycle + BitVec.ofNat 64 n }

/-- `IO()`: one internal bus cycle, no access (R565). -/
def io : Exec Unit := modR (Regs.tick 1)

/-- `MemRead(addr, 1)` (R73): the bound is checked first; one bus cycle. -/
def memRead (a : Addr) : Exec Byte := fun s =>
  if a.toNat < s.cfg.memBytes then .ok (Memory.read s.mem a.toNat) { s with r := s.r.tick 1 }
  else .error (.outOfRangeMemory a .read s) s

/-- `MemWrite(addr, 1, v)` (R74): the bound is checked first; one bus cycle. -/
def memWrite (a : Addr) (v : Byte) : Exec Unit := fun s =>
  if a.toNat < s.cfg.memBytes then
    .ok () { s with mem := Memory.write s.mem a.toNat v, r := s.r.tick 1 }
  else .error (.outOfRangeMemory a .write s) s

/-- `block_end <- true` (R18, R214). -/
def blockEnd : Exec Unit := fun s => .ok () { s with ending := true }

/-! ### The stack (R288 to R291) -/

/-- `modifyStack(dir)`: one step of S with the emulation-mode lock (R288). -/
def modifyStack (up : Bool) (r : Regs) : Regs :=
  { r with s := stackLock r.e (if up then r.s + 1#16 else r.s - 1#16) }

/-- `Push8(v)`: the byte goes where S points before the step (R289). -/
def push8 (v : Byte) : Exec Unit := do
  let r ← readR
  memWrite (mkAddr 0x00#8 r.s) v
  modR (modifyStack false)

/-- `Pull8()`: S steps first (R290). -/
def pull8 : Exec Byte := do
  modR (modifyStack true)
  let r ← readR
  memRead (mkAddr 0x00#8 r.s)

/-- `Push16(v)`: high byte first (R291). -/
def push16 (v : Word16) : Exec Unit := do
  push8 (hi8 v)
  push8 (lo8 v)

/-- `Pull16()`: low byte first (R291). -/
def pull16 : Exec Word16 := do
  let lo ← pull8
  let hi ← pull8
  pure (cat16 hi lo)

/-! ### Instruction fetch (R17, R223) -/

/-- `FetchPC()`: one byte at `{PBR, PC}`, then PC + 1 at 16 bits (R17, R42). -/
def fetchPC : Exec Byte := do
  let r ← readR
  let v ← memRead (mkAddr r.pbr r.pc)
  modR (fun r => { r with pc := r.pc + 1#16 })
  pure v

/-- `n` fetches in ascending order (R100). -/
def fetchBytes : Nat → Exec (List Byte)
  | 0 => pure []
  | n + 1 => do
    let b ← fetchPC
    let rest ← fetchBytes n
    pure (b :: rest)

/-- The lift-time read of the opcode byte: bound check, no cycle, no PC step (R223). -/
def liftRead : Exec Byte := fun s =>
  let a := mkAddr s.r.pbr s.r.pc
  if a.toNat < s.cfg.memBytes then .ok (Memory.read s.mem a.toNat) s
  else .error (.outOfRangeMemory a .read s) s

/-- What decoding depends on in a state (R107). -/
def State.ctx (s : State) : Ctx := { m := s.r.m, xf := s.r.xf, sr := s.cfg.srOffset }

/-- An instruction that is past the lift-time read has begun: `ending` is false until it sets it (R214; log 7). -/
def beginInstr : Exec Unit := fun s => .ok () { s with ending := false }

/-- The bytes of the instruction at `{PBR, PC}`: the lift-time read, then one fetch a byte of its length (R223, R107). An
unimplemented opcode is not fetched past its byte (R501). -/
def fetchInstr : Exec (List Byte) := do
  let op ← liftRead
  let c : Ctx ← (fun s => .ok s.ctx s)
  beginInstr
  fetchBytes (instrLength c op)

/-! ### Running a meaning -/

/-- The registers after the instruction's own bytes are fetched: PC and CYCLE advance by its length (R43, R566). -/
def Regs.fetched (n : Nat) (r : Regs) : Regs :=
  { r with pc := r.pc + BitVec.ofNat 16 n, cycle := r.cycle + BitVec.ofNat 64 n }

/-- The start of every meaning: its `n` bytes are fetched and `ending` is false until the instruction sets it (R214, R223,
log 5). -/
def fetched (n : Nat) : Exec Unit := fun s => .ok () { s with r := s.r.fetched n, ending := false }

/-- A meaning from a computation: the instruction's length, then its rule. -/
def runGuest (n : Nat) (body : Exec Unit) (s : State) : Host.Outcome State Fault Refusal :=
  match (do fetched n; body : Exec Unit) s with
  | .ok _ t => .next t
  | .error f _ => .fault f

/-- Dispatch into an empty table slot: UnimplementedOpcode with the opcode and `{PBR, PC}`, before any effect (R222,
R501). -/
def unimplemented (opcode : Byte) (s : State) : Host.Outcome State Fault Refusal :=
  .fault (.unimplementedOpcode opcode (mkAddr s.r.pbr s.r.pc) s)

end Sys2Proof.Machine
end

