-- ==== Sys2Proof/Machine/Operands.lean ====
section
/-! DEFINITION. Every addressing mode (42_addressing.md R240 to R258), the data accesses after it (20_memory.md R80, 43_helpers.md
R295, R296), and the shared instruction patterns over them: the accumulator family (44_alu.md), read-modify-write
(45_rmw_bit_stz.md R340), BIT, STZ, the index family (46_index.md R370), pulls (48_stack.md R454) and branches
(49_control.md R480). -/

namespace Sys2Proof.Machine

/-! ### Addressing modes -/

/-- The modes that form an effective address, each with its operand (R101). -/
inductive Mode where
  | dir (d : Byte)
  | dirX (d : Byte)
  | dirY (d : Byte)
  | ind (d : Byte)
  | indLong (d : Byte)
  | indX (d : Byte)
  | indY (d : Byte)
  | sr (off : Word16)
  | abs (a : Word16)
  | absX (a : Word16)
  | absY (a : Word16)
  | long (a : Addr)
  | longX (a : Addr)
  deriving DecidableEq, Repr

/-- Instruction length of a mode, opcode included (R101, R107). -/
def Mode.length (sr : SrOffset) : Mode → Nat
  | .dir _ | .dirX _ | .dirY _ | .ind _ | .indLong _ | .indX _ | .indY _ => 2
  | .sr _ => 1 + sr.bytes
  | .abs _ | .absX _ | .absY _ => 3
  | .long _ | .longX _ => 4

/-- An effective address; `bank0` marks the modes whose high byte stays in bank 0 (R80, R240). -/
structure Ea where
  addr : Addr
  bank0 : Bool
  deriving DecidableEq, Repr

/-- `ea_hi`, the address of the high byte of a 16-bit datum (R80). -/
def Ea.hi (ea : Ea) : Addr :=
  if ea.bank0 then mkAddr 0x00#8 (ea.addr.extractLsb' 0 16 + 1#16) else ea.addr + 1#24

/-- Does the direct-page penalty `w` apply? (R243) -/
def dpPenalty (r : Regs) : Bool := lo8 r.d != 0x00#8

/-- `(D + off) mod 2^16` after the direct-page penalty (R243, R248). -/
def directBase (d : Byte) : Exec Word16 := do
  let r ← readR
  if dpPenalty r then io
  pure (r.d + zext16 d)

/-- A 16-bit pointer read in bank 0; its increment wraps in the page under E (R250, R254). -/
def readPtr16 (p : Word16) : Exec Word16 := do
  let r ← readR
  let lo ← memRead (mkAddr 0x00#8 p)
  let hi ← memRead (mkAddr 0x00#8 (wrapAdd p 1#16 r.e))
  pure (cat16 hi lo)

/-- A 24-bit pointer read in bank 0 (R251). -/
def readPtr24 (p : Word16) : Exec Addr := do
  let r ← readR
  let off ← readPtr16 p
  let bank ← memRead (mkAddr 0x00#8 (wrapAdd p 2#16 r.e))
  pure (mkAddr bank off)

/-- Does the read penalty `p` apply to base `b` and index `i`? (R242) -/
def readPenalty (r : Regs) (b i : Word16) : Bool := !r.xf || cross b i

/-- The extra cycle of an indexed access: always for stores, on the read penalty for reads (R246, R253). -/
def indexPenalty (isStore : Bool) (r : Regs) (b i : Word16) : Exec Unit :=
  if isStore || readPenalty r b i then io else pure ()

/-- The effective address of a mode, with the cycles and pointer reads it adds after the operand fetches (R244 to R255). -/
def Mode.ea (isStore : Bool) : Mode → Exec Ea
  | .dir d => do
    let p ← directBase d
    pure { addr := mkAddr 0x00#8 p, bank0 := true }
  | .dirX d => do
    let p ← directBase d
    io
    let r ← readR
    pure { addr := mkAddr 0x00#8 (wrapAdd p (loadIdx .x r) r.e), bank0 := true }
  | .dirY d => do
    let p ← directBase d
    io
    let r ← readR
    pure { addr := mkAddr 0x00#8 (wrapAdd p (loadIdx .y r) r.e), bank0 := true }
  | .ind d => do
    let p ← directBase d
    let ptr ← readPtr16 p
    let r ← readR
    pure { addr := mkAddr r.dbr ptr, bank0 := false }
  | .indLong d => do
    let p ← directBase d
    let ptr ← readPtr24 p
    pure { addr := ptr, bank0 := false }
  | .indX d => do
    let p ← directBase d
    io
    let r ← readR
    let ptr ← readPtr16 (wrapAdd p (loadIdx .x r) r.e)
    pure { addr := mkAddr r.dbr ptr, bank0 := false }
  | .indY d => do
    let p ← directBase d
    let ptr ← readPtr16 p
    let r ← readR
    indexPenalty isStore r ptr (loadIdx .y r)
    pure { addr := mkAddr r.dbr ptr + zext24 (loadIdx .y r), bank0 := false }
  | .sr off => do
    io
    let r ← readR
    pure { addr := mkAddr 0x00#8 (r.s + off), bank0 := true }
  | .abs a => do
    let r ← readR
    pure { addr := mkAddr r.dbr a, bank0 := false }
  | .absX a => do
    let r ← readR
    indexPenalty isStore r a (loadIdx .x r)
    pure { addr := mkAddr r.dbr a + zext24 (loadIdx .x r), bank0 := false }
  | .absY a => do
    let r ← readR
    indexPenalty isStore r a (loadIdx .y r)
    pure { addr := mkAddr r.dbr a + zext24 (loadIdx .y r), bank0 := false }
  | .long a => pure { addr := a, bank0 := false }
  | .longX a => do
    let r ← readR
    pure { addr := a + zext24 (loadIdx .x r), bank0 := false }

/-! ### Data accesses -/

/-- `ReadOperand(EA, w)`: low byte, then high when 16-bit (R295). -/
def readOperand (ea : Ea) (w : Width) : Exec Word16 := do
  let lo ← memRead ea.addr
  match w with
  | .w8 => pure (zext16 lo)
  | .w16 => do
    let hi ← memRead ea.hi
    pure (cat16 hi lo)

/-- `WriteOperand(EA, w, v)`: low byte, then high when 16-bit (R296). -/
def writeOperand (ea : Ea) (w : Width) (v : Word16) : Exec Unit := do
  memWrite ea.addr (lo8 v)
  match w with
  | .w8 => pure ()
  | .w16 => memWrite ea.hi (hi8 v)

/-- The result of a read-modify-write: high byte first (R294, D14). -/
def writeBack (ea : Ea) (w : Width) (v : Word16) : Exec Unit := do
  match w with
  | .w8 => pure ()
  | .w16 => memWrite ea.hi (hi8 v)
  memWrite ea.addr (lo8 v)

/-- The bytes a store of width `w` at `ea` touches (R80). -/
def storedBytes (ea : Ea) (w : Width) : List Addr :=
  match w with
  | .w8 => [ea.addr]
  | .w16 => [ea.addr, ea.hi]

/-- Length of an instruction with an immediate of the given width flag: 2 bytes, or 3 when the flag is 0 (R101). -/
def immLength (narrow : Bool) : Nat := if narrow then 2 else 3

/-- A meaning whose length depends on the state at its start: the mode's (R107). -/
def runMode (m : Mode) (body : Exec Unit) (s : State) : Host.Outcome State Fault Refusal :=
  runGuest (m.length s.cfg.srOffset) body s

/-! ### The accumulator family (44_alu.md) -/

/-- The reading instructions of the family. -/
inductive AluOp where
  | ora | and | eor | adc | sbc | cmp | lda
  deriving DecidableEq, Repr

/-- A bitwise result stored in the accumulator, with N and Z (R311 to R313, R317). -/
def storeResultA (v : Word16) (r : Regs) : Regs := setNZ (widthA r) v (storeA false v r)

/-- An arithmetic result: accumulator, C and V, then N and Z (R314, R315). -/
def addResultA (val : Word16) (r : Regs) : Regs :=
  let s := addAt (widthA r) (loadA r) val r.c
  storeResultA s.res { r with c := s.carry, v := s.overflow }

/-- The register effect of an operation on its operand (R311 to R317). -/
def AluOp.apply (op : AluOp) (v : Word16) (r : Regs) : Regs :=
  match op with
  | .ora => storeResultA (loadA r ||| v) r
  | .and => storeResultA (loadA r &&& v) r
  | .eor => storeResultA (loadA r ^^^ v) r
  | .adc => addResultA v r
  | .sbc => addResultA (~~~v) r
  | .cmp => compareAt (widthA r) (loadA r) v r
  | .lda => storeResultA v r

/-- A memory form of the family: the operand read at wA (R310). -/
def aluMem (op : AluOp) (m : Mode) (s : State) : Host.Outcome State Fault Refusal :=
  runMode m (do
    let ea ← m.ea false
    let r ← readR
    let v ← readOperand ea (widthA r)
    modR (op.apply v)) s

/-- The immediate form of the family: `ReadPc(M)` (R256, R310). -/
def aluImm (op : AluOp) (v : Word16) (s : State) : Host.Outcome State Fault Refusal :=
  runGuest (immLength s.r.m) (modR (op.apply v)) s

/-- A store at a width: STA, STX, STY, STZ (R318, R348, R373, R374). -/
def storeMem (width : Regs → Width) (value : Regs → Word16) (m : Mode) (s : State) :
    Host.Outcome State Fault Refusal :=
  runMode m (do
    let ea ← m.ea true
    let r ← readR
    writeOperand ea (width r) (value r)) s

/-! ### Read-modify-write, BIT (45_rmw_bit_stz.md) -/

/-- The accumulator form: one internal cycle, the operation at wA, B kept when M = 1 (R293, R340). -/
def rmwAcc (op : RmwOp) (s : State) : Host.Outcome State Fault Refusal :=
  runGuest 1 (do
    io
    modR (fun r => storeA false (op.at (widthA r) (loadA r) r.c).1 (rmwFlags op (widthA r) (loadA r) r))) s

/-- The memory form: read, modify cycle, flags, write high byte first (R294, R340). -/
def rmwMem (op : RmwOp) (m : Mode) (s : State) : Host.Outcome State Fault Refusal :=
  runMode m (do
    let ea ← m.ea true
    let r ← readR
    let v ← readOperand ea (widthA r)
    io
    modR (rmwFlags op (widthA r) v)
    writeBack ea (widthA r) (op.at (widthA r) v r.c).1) s

/-- Z of BIT: `((A AND v) mod 2^wA) = 0` (R347). -/
def bitZ (v : Word16) (r : Regs) : Regs :=
  { r with z :=
      match widthA r with
      | .w8 => lo8 (loadA r &&& v) == 0#8
      | .w16 => (loadA r &&& v) == 0#16 }

/-- N and V of BIT's memory forms: the top two bits of the operand at wA (R347). -/
def bitNV (v : Word16) (r : Regs) : Regs :=
  match widthA r with
  | .w8 => { r with n := v.getLsbD 7, v := v.getLsbD 6 }
  | .w16 => { r with n := v.getLsbD 15, v := v.getLsbD 14 }

/-- BIT on memory (R347). -/
def bitMem (m : Mode) (s : State) : Host.Outcome State Fault Refusal :=
  runMode m (do
    let ea ← m.ea false
    let r ← readR
    let v ← readOperand ea (widthA r)
    modR (fun r => bitNV v (bitZ v r))) s

/-- BIT immediate: Z only (R347). -/
def bitImm (v : Word16) (s : State) : Host.Outcome State Fault Refusal :=
  runGuest (immLength s.r.m) (modR (bitZ v)) s

/-! ### The index family (46_index.md) -/

/-- An index result: the register, then N and Z at wX (R370, R272). -/
def setIdx (i : Idx) (v : Word16) (r : Regs) : Regs := setNZ (widthX r) v (storeIdx i v r)

/-- LDX, LDY from memory (R371, R372). -/
def ldIdxMem (i : Idx) (m : Mode) (s : State) : Host.Outcome State Fault Refusal :=
  runMode m (do
    let ea ← m.ea false
    let r ← readR
    let v ← readOperand ea (widthX r)
    modR (setIdx i v)) s

/-- LDX, LDY immediate: `ReadPc(Flag_X)` (R256, R370). -/
def ldIdxImm (i : Idx) (v : Word16) (s : State) : Host.Outcome State Fault Refusal :=
  runGuest (immLength s.r.xf) (modR (setIdx i v)) s

/-- CPX, CPY against memory (R375, R376). -/
def cpIdxMem (i : Idx) (m : Mode) (s : State) : Host.Outcome State Fault Refusal :=
  runMode m (do
    let ea ← m.ea false
    let r ← readR
    let v ← readOperand ea (widthX r)
    modR (fun r => compareAt (widthX r) (loadIdx i r) v r)) s

/-- CPX, CPY immediate (R375, R376). -/
def cpIdxImm (i : Idx) (v : Word16) (s : State) : Host.Outcome State Fault Refusal :=
  runGuest (immLength s.r.xf) (modR (fun r => compareAt (widthX r) (loadIdx i r) v r)) s

/-- INX, INY, DEX, DEY: 16-bit arithmetic clipped by `storeReg16` (R377 to R380). -/
def stepIdx (i : Idx) (up : Bool) (s : State) : Host.Outcome State Fault Refusal :=
  runGuest 1 (do
    io
    modR (fun r => setIdx i (if up then loadIdx i r + 1#16 else loadIdx i r - 1#16) r)) s

/-! ### Implied instructions of one internal cycle (47_transfer_flag.md R400) -/

/-- One byte, `k` internal cycles, one register effect (R400). -/
def implied (k : Nat) (f : Regs → Regs) (s : State) : Host.Outcome State Fault Refusal :=
  runGuest 1 (do
    modR (Regs.tick k)
    modR f) s

/-! ### Pushes and pulls (48_stack.md R440) -/

/-- One internal cycle, then the high byte if the value is 16-bit, then the low byte (R440, R441, R443, R449). -/
def pushAt (width : Regs → Width) (value : Regs → Word16) (s : State) : Host.Outcome State Fault Refusal :=
  runGuest 1 (do
    io
    let r ← readR
    match width r with
    | .w8 => push8 (lo8 (value r))
    | .w16 => push16 (value r)) s

/-- Two internal cycles, then the low byte, then the high byte if 16-bit, then the register effect (R440, R444, R450). -/
def pullAt (width : Regs → Width) (f : Word16 → Regs → Regs) (s : State) :
    Host.Outcome State Fault Refusal :=
  runGuest 1 (do
    modR (Regs.tick 2)
    let r ← readR
    let lo ← pull8
    let hi ← (match width r with
      | .w8 => pure 0x00#8
      | .w16 => pull8)
    modR (f (cat16 hi lo))) s

/-! ### Control transfer (49_control.md) -/

/-- The common branch rule (R480): the displacement is fetched whether or not the branch is taken; the block ends either
way. -/
def branch (cond : Regs → Bool) (d : Byte) (s : State) : Host.Outcome State Fault Refusal :=
  runGuest 2 (do
    let r ← readR
    if cond r then
      io
      if r.e && hi8 (r.pc + sext16 d) != hi8 r.pc then io
      modR (fun q => { q with pc := r.pc + sext16 d })
    blockEnd) s

/-- Setting PC, and PBR for the long form, and ending the block (R470, R471). -/
def jumpTo (pbr : Option Byte) (t : Word16) : Exec Unit := do
  modR (fun r => { r with pc := t, pbr := pbr.getD r.pbr })
  blockEnd

end Sys2Proof.Machine
end

