-- ==== Sys2Proof/Machine/Alu.lean ====
section
/-! DEFINITION. The accumulator family (44_alu.md R310 to R319): ORA AND EOR ADC SBC CMP LDA STA, one meaning a row of the
opcode table. -/

namespace Sys2Proof.Machine

/-- `ORA ($nn,X)` (R311, mode R252); cycles 6+m+w. -/
def execOraIndX (d : Byte) (s : State) : Host.Outcome State Fault Refusal :=
  aluMem .ora (.indX d) s

/-- `ORA $nn,S` (R311, mode R255); cycles 3+n+m. -/
def execOraSr (off : Word16) (s : State) : Host.Outcome State Fault Refusal :=
  aluMem .ora (.sr off) s

/-- `ORA $nn` (R311, mode R248); cycles 3+m+w. -/
def execOraDir (d : Byte) (s : State) : Host.Outcome State Fault Refusal :=
  aluMem .ora (.dir d) s

/-- `ORA [$nn]` (R311, mode R251); cycles 6+m+w. -/
def execOraIndLong (d : Byte) (s : State) : Host.Outcome State Fault Refusal :=
  aluMem .ora (.indLong d) s

/-- `ORA #$nn / #$nnnn` (R311, mode R256); cycles 2+m. -/
def execOraImm (v : Word16) (s : State) : Host.Outcome State Fault Refusal :=
  aluImm .ora v s

/-- `ORA $nnnn` (R311, mode R244); cycles 4+m. -/
def execOraAbs (a : Word16) (s : State) : Host.Outcome State Fault Refusal :=
  aluMem .ora (.abs a) s

/-- `ORA $nnnnnn` (R311, mode R245); cycles 5+m. -/
def execOraLong (a : Addr) (s : State) : Host.Outcome State Fault Refusal :=
  aluMem .ora (.long a) s

/-- `ORA ($nn),Y` (R311, mode R253); cycles 5+m+w+p. -/
def execOraIndY (d : Byte) (s : State) : Host.Outcome State Fault Refusal :=
  aluMem .ora (.indY d) s

/-- `ORA ($nn)` (R311, mode R250); cycles 5+m+w. -/
def execOraInd (d : Byte) (s : State) : Host.Outcome State Fault Refusal :=
  aluMem .ora (.ind d) s

/-- `ORA $nn,X` (R311, mode R249); cycles 4+m+w. -/
def execOraDirX (d : Byte) (s : State) : Host.Outcome State Fault Refusal :=
  aluMem .ora (.dirX d) s

/-- `ORA $nnnn,Y` (R311, mode R246); cycles 4+m+p. -/
def execOraAbsY (a : Word16) (s : State) : Host.Outcome State Fault Refusal :=
  aluMem .ora (.absY a) s

/-- `ORA $nnnn,X` (R311, mode R246); cycles 4+m+p. -/
def execOraAbsX (a : Word16) (s : State) : Host.Outcome State Fault Refusal :=
  aluMem .ora (.absX a) s

/-- `ORA $nnnnnn,X` (R311, mode R247); cycles 5+m. -/
def execOraLongX (a : Addr) (s : State) : Host.Outcome State Fault Refusal :=
  aluMem .ora (.longX a) s

/-- `AND ($nn,X)` (R312, mode R252); cycles 6+m+w. -/
def execAndIndX (d : Byte) (s : State) : Host.Outcome State Fault Refusal :=
  aluMem .and (.indX d) s

/-- `AND $nn,S` (R312, mode R255); cycles 3+n+m. -/
def execAndSr (off : Word16) (s : State) : Host.Outcome State Fault Refusal :=
  aluMem .and (.sr off) s

/-- `AND $nn` (R312, mode R248); cycles 3+m+w. -/
def execAndDir (d : Byte) (s : State) : Host.Outcome State Fault Refusal :=
  aluMem .and (.dir d) s

/-- `AND [$nn]` (R312, mode R251); cycles 6+m+w. -/
def execAndIndLong (d : Byte) (s : State) : Host.Outcome State Fault Refusal :=
  aluMem .and (.indLong d) s

/-- `AND #$nn / #$nnnn` (R312, mode R256); cycles 2+m. -/
def execAndImm (v : Word16) (s : State) : Host.Outcome State Fault Refusal :=
  aluImm .and v s

/-- `AND $nnnn` (R312, mode R244); cycles 4+m. -/
def execAndAbs (a : Word16) (s : State) : Host.Outcome State Fault Refusal :=
  aluMem .and (.abs a) s

/-- `AND $nnnnnn` (R312, mode R245); cycles 5+m. -/
def execAndLong (a : Addr) (s : State) : Host.Outcome State Fault Refusal :=
  aluMem .and (.long a) s

/-- `AND ($nn),Y` (R312, mode R253); cycles 5+m+w+p. -/
def execAndIndY (d : Byte) (s : State) : Host.Outcome State Fault Refusal :=
  aluMem .and (.indY d) s

/-- `AND ($nn)` (R312, mode R250); cycles 5+m+w. -/
def execAndInd (d : Byte) (s : State) : Host.Outcome State Fault Refusal :=
  aluMem .and (.ind d) s

/-- `AND $nn,X` (R312, mode R249); cycles 4+m+w. -/
def execAndDirX (d : Byte) (s : State) : Host.Outcome State Fault Refusal :=
  aluMem .and (.dirX d) s

/-- `AND $nnnn,Y` (R312, mode R246); cycles 4+m+p. -/
def execAndAbsY (a : Word16) (s : State) : Host.Outcome State Fault Refusal :=
  aluMem .and (.absY a) s

/-- `AND $nnnn,X` (R312, mode R246); cycles 4+m+p. -/
def execAndAbsX (a : Word16) (s : State) : Host.Outcome State Fault Refusal :=
  aluMem .and (.absX a) s

/-- `AND $nnnnnn,X` (R312, mode R247); cycles 5+m. -/
def execAndLongX (a : Addr) (s : State) : Host.Outcome State Fault Refusal :=
  aluMem .and (.longX a) s

/-- `EOR ($nn,X)` (R313, mode R252); cycles 6+m+w. -/
def execEorIndX (d : Byte) (s : State) : Host.Outcome State Fault Refusal :=
  aluMem .eor (.indX d) s

/-- `EOR $nn,S` (R313, mode R255); cycles 3+n+m. -/
def execEorSr (off : Word16) (s : State) : Host.Outcome State Fault Refusal :=
  aluMem .eor (.sr off) s

/-- `EOR $nn` (R313, mode R248); cycles 3+m+w. -/
def execEorDir (d : Byte) (s : State) : Host.Outcome State Fault Refusal :=
  aluMem .eor (.dir d) s

/-- `EOR [$nn]` (R313, mode R251); cycles 6+m+w. -/
def execEorIndLong (d : Byte) (s : State) : Host.Outcome State Fault Refusal :=
  aluMem .eor (.indLong d) s

/-- `EOR #$nn / #$nnnn` (R313, mode R256); cycles 2+m. -/
def execEorImm (v : Word16) (s : State) : Host.Outcome State Fault Refusal :=
  aluImm .eor v s

/-- `EOR $nnnn` (R313, mode R244); cycles 4+m. -/
def execEorAbs (a : Word16) (s : State) : Host.Outcome State Fault Refusal :=
  aluMem .eor (.abs a) s

/-- `EOR $nnnnnn` (R313, mode R245); cycles 5+m. -/
def execEorLong (a : Addr) (s : State) : Host.Outcome State Fault Refusal :=
  aluMem .eor (.long a) s

/-- `EOR ($nn),Y` (R313, mode R253); cycles 5+m+w+p. -/
def execEorIndY (d : Byte) (s : State) : Host.Outcome State Fault Refusal :=
  aluMem .eor (.indY d) s

/-- `EOR ($nn)` (R313, mode R250); cycles 5+m+w. -/
def execEorInd (d : Byte) (s : State) : Host.Outcome State Fault Refusal :=
  aluMem .eor (.ind d) s

/-- `EOR $nn,X` (R313, mode R249); cycles 4+m+w. -/
def execEorDirX (d : Byte) (s : State) : Host.Outcome State Fault Refusal :=
  aluMem .eor (.dirX d) s

/-- `EOR $nnnn,Y` (R313, mode R246); cycles 4+m+p. -/
def execEorAbsY (a : Word16) (s : State) : Host.Outcome State Fault Refusal :=
  aluMem .eor (.absY a) s

/-- `EOR $nnnn,X` (R313, mode R246); cycles 4+m+p. -/
def execEorAbsX (a : Word16) (s : State) : Host.Outcome State Fault Refusal :=
  aluMem .eor (.absX a) s

/-- `EOR $nnnnnn,X` (R313, mode R247); cycles 5+m. -/
def execEorLongX (a : Addr) (s : State) : Host.Outcome State Fault Refusal :=
  aluMem .eor (.longX a) s

/-- `ADC ($nn,X)` (R314, mode R252); cycles 6+m+w. -/
def execAdcIndX (d : Byte) (s : State) : Host.Outcome State Fault Refusal :=
  aluMem .adc (.indX d) s

/-- `ADC $nn,S` (R314, mode R255); cycles 3+n+m. -/
def execAdcSr (off : Word16) (s : State) : Host.Outcome State Fault Refusal :=
  aluMem .adc (.sr off) s

/-- `ADC $nn` (R314, mode R248); cycles 3+m+w. -/
def execAdcDir (d : Byte) (s : State) : Host.Outcome State Fault Refusal :=
  aluMem .adc (.dir d) s

/-- `ADC [$nn]` (R314, mode R251); cycles 6+m+w. -/
def execAdcIndLong (d : Byte) (s : State) : Host.Outcome State Fault Refusal :=
  aluMem .adc (.indLong d) s

/-- `ADC #$nn / #$nnnn` (R314, mode R256); cycles 2+m. -/
def execAdcImm (v : Word16) (s : State) : Host.Outcome State Fault Refusal :=
  aluImm .adc v s

/-- `ADC $nnnn` (R314, mode R244); cycles 4+m. -/
def execAdcAbs (a : Word16) (s : State) : Host.Outcome State Fault Refusal :=
  aluMem .adc (.abs a) s

/-- `ADC $nnnnnn` (R314, mode R245); cycles 5+m. -/
def execAdcLong (a : Addr) (s : State) : Host.Outcome State Fault Refusal :=
  aluMem .adc (.long a) s

/-- `ADC ($nn),Y` (R314, mode R253); cycles 5+m+w+p. -/
def execAdcIndY (d : Byte) (s : State) : Host.Outcome State Fault Refusal :=
  aluMem .adc (.indY d) s

/-- `ADC ($nn)` (R314, mode R250); cycles 5+m+w. -/
def execAdcInd (d : Byte) (s : State) : Host.Outcome State Fault Refusal :=
  aluMem .adc (.ind d) s

/-- `ADC $nn,X` (R314, mode R249); cycles 4+m+w. -/
def execAdcDirX (d : Byte) (s : State) : Host.Outcome State Fault Refusal :=
  aluMem .adc (.dirX d) s

/-- `ADC $nnnn,Y` (R314, mode R246); cycles 4+m+p. -/
def execAdcAbsY (a : Word16) (s : State) : Host.Outcome State Fault Refusal :=
  aluMem .adc (.absY a) s

/-- `ADC $nnnn,X` (R314, mode R246); cycles 4+m+p. -/
def execAdcAbsX (a : Word16) (s : State) : Host.Outcome State Fault Refusal :=
  aluMem .adc (.absX a) s

/-- `ADC $nnnnnn,X` (R314, mode R247); cycles 5+m. -/
def execAdcLongX (a : Addr) (s : State) : Host.Outcome State Fault Refusal :=
  aluMem .adc (.longX a) s

/-- `STA ($nn,X)` (R318, mode R252); cycles 6+m+w. -/
def execStaIndX (d : Byte) (s : State) : Host.Outcome State Fault Refusal :=
  storeMem widthA loadA (.indX d) s

/-- `STA $nn,S` (R318, mode R255); cycles 3+n+m. -/
def execStaSr (off : Word16) (s : State) : Host.Outcome State Fault Refusal :=
  storeMem widthA loadA (.sr off) s

/-- `STA $nn` (R318, mode R248); cycles 3+m+w. -/
def execStaDir (d : Byte) (s : State) : Host.Outcome State Fault Refusal :=
  storeMem widthA loadA (.dir d) s

/-- `STA [$nn]` (R318, mode R251); cycles 6+m+w. -/
def execStaIndLong (d : Byte) (s : State) : Host.Outcome State Fault Refusal :=
  storeMem widthA loadA (.indLong d) s

/-- `STA $nnnn` (R318, mode R244); cycles 4+m. -/
def execStaAbs (a : Word16) (s : State) : Host.Outcome State Fault Refusal :=
  storeMem widthA loadA (.abs a) s

/-- `STA $nnnnnn` (R318, mode R245); cycles 5+m. -/
def execStaLong (a : Addr) (s : State) : Host.Outcome State Fault Refusal :=
  storeMem widthA loadA (.long a) s

/-- `STA ($nn),Y` (R318, mode R253); cycles 6+m+w. -/
def execStaIndY (d : Byte) (s : State) : Host.Outcome State Fault Refusal :=
  storeMem widthA loadA (.indY d) s

/-- `STA ($nn)` (R318, mode R250); cycles 5+m+w. -/
def execStaInd (d : Byte) (s : State) : Host.Outcome State Fault Refusal :=
  storeMem widthA loadA (.ind d) s

/-- `STA $nn,X` (R318, mode R249); cycles 4+m+w. -/
def execStaDirX (d : Byte) (s : State) : Host.Outcome State Fault Refusal :=
  storeMem widthA loadA (.dirX d) s

/-- `STA $nnnn,Y` (R318, mode R246); cycles 5+m. -/
def execStaAbsY (a : Word16) (s : State) : Host.Outcome State Fault Refusal :=
  storeMem widthA loadA (.absY a) s

/-- `STA $nnnn,X` (R318, mode R246); cycles 5+m. -/
def execStaAbsX (a : Word16) (s : State) : Host.Outcome State Fault Refusal :=
  storeMem widthA loadA (.absX a) s

/-- `STA $nnnnnn,X` (R318, mode R247); cycles 5+m. -/
def execStaLongX (a : Addr) (s : State) : Host.Outcome State Fault Refusal :=
  storeMem widthA loadA (.longX a) s

/-- `LDA ($nn,X)` (R317, mode R252); cycles 6+m+w. -/
def execLdaIndX (d : Byte) (s : State) : Host.Outcome State Fault Refusal :=
  aluMem .lda (.indX d) s

/-- `LDA $nn,S` (R317, mode R255); cycles 3+n+m. -/
def execLdaSr (off : Word16) (s : State) : Host.Outcome State Fault Refusal :=
  aluMem .lda (.sr off) s

/-- `LDA $nn` (R317, mode R248); cycles 3+m+w. -/
def execLdaDir (d : Byte) (s : State) : Host.Outcome State Fault Refusal :=
  aluMem .lda (.dir d) s

/-- `LDA [$nn]` (R317, mode R251); cycles 6+m+w. -/
def execLdaIndLong (d : Byte) (s : State) : Host.Outcome State Fault Refusal :=
  aluMem .lda (.indLong d) s

/-- `LDA #$nn / #$nnnn` (R317, mode R256); cycles 2+m. -/
def execLdaImm (v : Word16) (s : State) : Host.Outcome State Fault Refusal :=
  aluImm .lda v s

/-- `LDA $nnnn` (R317, mode R244); cycles 4+m. -/
def execLdaAbs (a : Word16) (s : State) : Host.Outcome State Fault Refusal :=
  aluMem .lda (.abs a) s

/-- `LDA $nnnnnn` (R317, mode R245); cycles 5+m. -/
def execLdaLong (a : Addr) (s : State) : Host.Outcome State Fault Refusal :=
  aluMem .lda (.long a) s

/-- `LDA ($nn),Y` (R317, mode R253); cycles 5+m+w+p. -/
def execLdaIndY (d : Byte) (s : State) : Host.Outcome State Fault Refusal :=
  aluMem .lda (.indY d) s

/-- `LDA ($nn)` (R317, mode R250); cycles 5+m+w. -/
def execLdaInd (d : Byte) (s : State) : Host.Outcome State Fault Refusal :=
  aluMem .lda (.ind d) s

/-- `LDA $nn,X` (R317, mode R249); cycles 4+m+w. -/
def execLdaDirX (d : Byte) (s : State) : Host.Outcome State Fault Refusal :=
  aluMem .lda (.dirX d) s

/-- `LDA $nnnn,Y` (R317, mode R246); cycles 4+m+p. -/
def execLdaAbsY (a : Word16) (s : State) : Host.Outcome State Fault Refusal :=
  aluMem .lda (.absY a) s

/-- `LDA $nnnn,X` (R317, mode R246); cycles 4+m+p. -/
def execLdaAbsX (a : Word16) (s : State) : Host.Outcome State Fault Refusal :=
  aluMem .lda (.absX a) s

/-- `LDA $nnnnnn,X` (R317, mode R247); cycles 5+m. -/
def execLdaLongX (a : Addr) (s : State) : Host.Outcome State Fault Refusal :=
  aluMem .lda (.longX a) s

/-- `CMP ($nn,X)` (R316, mode R252); cycles 6+m+w. -/
def execCmpIndX (d : Byte) (s : State) : Host.Outcome State Fault Refusal :=
  aluMem .cmp (.indX d) s

/-- `CMP $nn,S` (R316, mode R255); cycles 3+n+m. -/
def execCmpSr (off : Word16) (s : State) : Host.Outcome State Fault Refusal :=
  aluMem .cmp (.sr off) s

/-- `CMP $nn` (R316, mode R248); cycles 3+m+w. -/
def execCmpDir (d : Byte) (s : State) : Host.Outcome State Fault Refusal :=
  aluMem .cmp (.dir d) s

/-- `CMP [$nn]` (R316, mode R251); cycles 6+m+w. -/
def execCmpIndLong (d : Byte) (s : State) : Host.Outcome State Fault Refusal :=
  aluMem .cmp (.indLong d) s

/-- `CMP #$nn / #$nnnn` (R316, mode R256); cycles 2+m. -/
def execCmpImm (v : Word16) (s : State) : Host.Outcome State Fault Refusal :=
  aluImm .cmp v s

/-- `CMP $nnnn` (R316, mode R244); cycles 4+m. -/
def execCmpAbs (a : Word16) (s : State) : Host.Outcome State Fault Refusal :=
  aluMem .cmp (.abs a) s

/-- `CMP $nnnnnn` (R316, mode R245); cycles 5+m. -/
def execCmpLong (a : Addr) (s : State) : Host.Outcome State Fault Refusal :=
  aluMem .cmp (.long a) s

/-- `CMP ($nn),Y` (R316, mode R253); cycles 5+m+w+p. -/
def execCmpIndY (d : Byte) (s : State) : Host.Outcome State Fault Refusal :=
  aluMem .cmp (.indY d) s

/-- `CMP ($nn)` (R316, mode R250); cycles 5+m+w. -/
def execCmpInd (d : Byte) (s : State) : Host.Outcome State Fault Refusal :=
  aluMem .cmp (.ind d) s

/-- `CMP $nn,X` (R316, mode R249); cycles 4+m+w. -/
def execCmpDirX (d : Byte) (s : State) : Host.Outcome State Fault Refusal :=
  aluMem .cmp (.dirX d) s

/-- `CMP $nnnn,Y` (R316, mode R246); cycles 4+m+p. -/
def execCmpAbsY (a : Word16) (s : State) : Host.Outcome State Fault Refusal :=
  aluMem .cmp (.absY a) s

/-- `CMP $nnnn,X` (R316, mode R246); cycles 4+m+p. -/
def execCmpAbsX (a : Word16) (s : State) : Host.Outcome State Fault Refusal :=
  aluMem .cmp (.absX a) s

/-- `CMP $nnnnnn,X` (R316, mode R247); cycles 5+m. -/
def execCmpLongX (a : Addr) (s : State) : Host.Outcome State Fault Refusal :=
  aluMem .cmp (.longX a) s

/-- `SBC ($nn,X)` (R315, mode R252); cycles 6+m+w. -/
def execSbcIndX (d : Byte) (s : State) : Host.Outcome State Fault Refusal :=
  aluMem .sbc (.indX d) s

/-- `SBC $nn,S` (R315, mode R255); cycles 3+n+m. -/
def execSbcSr (off : Word16) (s : State) : Host.Outcome State Fault Refusal :=
  aluMem .sbc (.sr off) s

/-- `SBC $nn` (R315, mode R248); cycles 3+m+w. -/
def execSbcDir (d : Byte) (s : State) : Host.Outcome State Fault Refusal :=
  aluMem .sbc (.dir d) s

/-- `SBC [$nn]` (R315, mode R251); cycles 6+m+w. -/
def execSbcIndLong (d : Byte) (s : State) : Host.Outcome State Fault Refusal :=
  aluMem .sbc (.indLong d) s

/-- `SBC #$nn / #$nnnn` (R315, mode R256); cycles 2+m. -/
def execSbcImm (v : Word16) (s : State) : Host.Outcome State Fault Refusal :=
  aluImm .sbc v s

/-- `SBC $nnnn` (R315, mode R244); cycles 4+m. -/
def execSbcAbs (a : Word16) (s : State) : Host.Outcome State Fault Refusal :=
  aluMem .sbc (.abs a) s

/-- `SBC $nnnnnn` (R315, mode R245); cycles 5+m. -/
def execSbcLong (a : Addr) (s : State) : Host.Outcome State Fault Refusal :=
  aluMem .sbc (.long a) s

/-- `SBC ($nn),Y` (R315, mode R253); cycles 5+m+w+p. -/
def execSbcIndY (d : Byte) (s : State) : Host.Outcome State Fault Refusal :=
  aluMem .sbc (.indY d) s

/-- `SBC ($nn)` (R315, mode R250); cycles 5+m+w. -/
def execSbcInd (d : Byte) (s : State) : Host.Outcome State Fault Refusal :=
  aluMem .sbc (.ind d) s

/-- `SBC $nn,X` (R315, mode R249); cycles 4+m+w. -/
def execSbcDirX (d : Byte) (s : State) : Host.Outcome State Fault Refusal :=
  aluMem .sbc (.dirX d) s

/-- `SBC $nnnn,Y` (R315, mode R246); cycles 4+m+p. -/
def execSbcAbsY (a : Word16) (s : State) : Host.Outcome State Fault Refusal :=
  aluMem .sbc (.absY a) s

/-- `SBC $nnnn,X` (R315, mode R246); cycles 4+m+p. -/
def execSbcAbsX (a : Word16) (s : State) : Host.Outcome State Fault Refusal :=
  aluMem .sbc (.absX a) s

/-- `SBC $nnnnnn,X` (R315, mode R247); cycles 5+m. -/
def execSbcLongX (a : Addr) (s : State) : Host.Outcome State Fault Refusal :=
  aluMem .sbc (.longX a) s

end Sys2Proof.Machine
end

