-- ==== Sys2Proof/Machine/Control.lean ====
section
/-! DEFINITION. Jumps, subroutine call and return, return from interrupt, branches (49_control.md R470 to R490). -/

namespace Sys2Proof.Machine

/-- `JMP (a)`: a 16-bit pointer in bank 0, PBR unchanged (R472, R254). -/
def jumpIndirect (a : Word16) : Exec Unit := do
  let t ← readPtr16 a
  jumpTo none t

/-- `JSR a`: one internal cycle, PC - 1 pushed high byte first, then the target in the same bank (R473). -/
def callSubroutine (a : Word16) : Exec Unit := do
  io
  let r ← readR
  push16 (r.pc - 1#16)
  jumpTo none a

/-- `RTS`: two internal cycles, the return address, one internal cycle, PC one past it (R474). -/
def returnSubroutine : Exec Unit := do
  modR (Regs.tick 2)
  let t ← pull16
  io
  jumpTo none (t + 1#16)

/-- `RTI`: P, then PC, then PBR in native mode only; no +1 (R475). It returns from no entry of this block (R512). -/
def returnInterrupt : Exec Unit := do
  modR (Regs.tick 2)
  let p ← pull8
  modR (unpackFlags p)
  let t ← pull16
  let r ← readR
  if r.e then jumpTo none t
  else do
    let bank ← pull8
    jumpTo (some bank) t

/-- `BPL label` (R481, mode R258); cycles 2+t+t*E*pc. -/
def execBpl (d : Byte) (s : State) : Host.Outcome State Fault Refusal :=
  branch (fun r => !r.n) d s

/-- `JSR $nnnn` (R473, mode R244); cycles 6. -/
def execJsrAbs (a : Word16) (s : State) : Host.Outcome State Fault Refusal :=
  runGuest 3 (callSubroutine a) s

/-- `BMI label` (R482, mode R258); cycles 2+t+t*E*pc. -/
def execBmi (d : Byte) (s : State) : Host.Outcome State Fault Refusal :=
  branch (fun r => r.n) d s

/-- `RTI` (R475, mode R257); cycles 7-E. -/
def execRti (s : State) : Host.Outcome State Fault Refusal :=
  runGuest 1 returnInterrupt s

/-- `JMP $nnnn` (R470, mode R244); cycles 3. -/
def execJmpAbs (a : Word16) (s : State) : Host.Outcome State Fault Refusal :=
  runGuest 3 (jumpTo none a) s

/-- `BVC label` (R483, mode R258); cycles 2+t+t*E*pc. -/
def execBvc (d : Byte) (s : State) : Host.Outcome State Fault Refusal :=
  branch (fun r => !r.v) d s

/-- `JMP $nnnnnn` (R471, mode R245); cycles 4. -/
def execJmpLong (a : Addr) (s : State) : Host.Outcome State Fault Refusal :=
  runGuest 4 (jumpTo (some (a.extractLsb' 16 8)) (a.extractLsb' 0 16)) s

/-- `RTS` (R474, mode R257); cycles 6. -/
def execRts (s : State) : Host.Outcome State Fault Refusal :=
  runGuest 1 returnSubroutine s

/-- `JMP ($nnnn)` (R472, mode R254); cycles 5. -/
def execJmpAbsInd (a : Word16) (s : State) : Host.Outcome State Fault Refusal :=
  runGuest 3 (jumpIndirect a) s

/-- `BVS label` (R484, mode R258); cycles 2+t+t*E*pc. -/
def execBvs (d : Byte) (s : State) : Host.Outcome State Fault Refusal :=
  branch (fun r => r.v) d s

/-- `BRA label` (R485, mode R258); cycles 2+t+t*E*pc. -/
def execBra (d : Byte) (s : State) : Host.Outcome State Fault Refusal :=
  branch (fun _ => true) d s

/-- `BCC label` (R486, mode R258); cycles 2+t+t*E*pc. -/
def execBcc (d : Byte) (s : State) : Host.Outcome State Fault Refusal :=
  branch (fun r => !r.c) d s

/-- `BCS label` (R487, mode R258); cycles 2+t+t*E*pc. -/
def execBcs (d : Byte) (s : State) : Host.Outcome State Fault Refusal :=
  branch (fun r => r.c) d s

/-- `BNE label` (R488, mode R258); cycles 2+t+t*E*pc. -/
def execBne (d : Byte) (s : State) : Host.Outcome State Fault Refusal :=
  branch (fun r => !r.z) d s

/-- `BEQ label` (R489, mode R258); cycles 2+t+t*E*pc. -/
def execBeq (d : Byte) (s : State) : Host.Outcome State Fault Refusal :=
  branch (fun r => r.z) d s

end Sys2Proof.Machine
end

