-- ==== Sys2Proof/Machine/Index.lean ====
section
/-! DEFINITION. The index-register family (46_index.md R370 to R380), one meaning a row of the opcode table. -/

namespace Sys2Proof.Machine

/-- `STY $nn` (R374, mode R248); cycles 3+x+w. -/
def execStyDir (d : Byte) (s : State) : Host.Outcome State Fault Refusal :=
  storeMem widthX (loadIdx .y) (.dir d) s

/-- `STX $nn` (R373, mode R248); cycles 3+x+w. -/
def execStxDir (d : Byte) (s : State) : Host.Outcome State Fault Refusal :=
  storeMem widthX (loadIdx .x) (.dir d) s

/-- `DEY` (R380, mode R257); cycles 2. -/
def execDey (s : State) : Host.Outcome State Fault Refusal :=
  stepIdx .y false s

/-- `STY $nnnn` (R374, mode R244); cycles 4+x. -/
def execStyAbs (a : Word16) (s : State) : Host.Outcome State Fault Refusal :=
  storeMem widthX (loadIdx .y) (.abs a) s

/-- `STX $nnnn` (R373, mode R244); cycles 4+x. -/
def execStxAbs (a : Word16) (s : State) : Host.Outcome State Fault Refusal :=
  storeMem widthX (loadIdx .x) (.abs a) s

/-- `STY $nn,X` (R374, mode R249); cycles 4+x+w. -/
def execStyDirX (d : Byte) (s : State) : Host.Outcome State Fault Refusal :=
  storeMem widthX (loadIdx .y) (.dirX d) s

/-- `STX $nn,Y` (R373, mode R249); cycles 4+x+w. -/
def execStxDirY (d : Byte) (s : State) : Host.Outcome State Fault Refusal :=
  storeMem widthX (loadIdx .x) (.dirY d) s

/-- `LDY #$nn / #$nnnn` (R372, mode R256); cycles 2+x. -/
def execLdyImm (v : Word16) (s : State) : Host.Outcome State Fault Refusal :=
  ldIdxImm .y v s

/-- `LDX #$nn / #$nnnn` (R371, mode R256); cycles 2+x. -/
def execLdxImm (v : Word16) (s : State) : Host.Outcome State Fault Refusal :=
  ldIdxImm .x v s

/-- `LDY $nn` (R372, mode R248); cycles 3+x+w. -/
def execLdyDir (d : Byte) (s : State) : Host.Outcome State Fault Refusal :=
  ldIdxMem .y (.dir d) s

/-- `LDX $nn` (R371, mode R248); cycles 3+x+w. -/
def execLdxDir (d : Byte) (s : State) : Host.Outcome State Fault Refusal :=
  ldIdxMem .x (.dir d) s

/-- `LDY $nnnn` (R372, mode R244); cycles 4+x. -/
def execLdyAbs (a : Word16) (s : State) : Host.Outcome State Fault Refusal :=
  ldIdxMem .y (.abs a) s

/-- `LDX $nnnn` (R371, mode R244); cycles 4+x. -/
def execLdxAbs (a : Word16) (s : State) : Host.Outcome State Fault Refusal :=
  ldIdxMem .x (.abs a) s

/-- `LDY $nn,X` (R372, mode R249); cycles 4+x+w. -/
def execLdyDirX (d : Byte) (s : State) : Host.Outcome State Fault Refusal :=
  ldIdxMem .y (.dirX d) s

/-- `LDX $nn,Y` (R371, mode R249); cycles 4+x+w. -/
def execLdxDirY (d : Byte) (s : State) : Host.Outcome State Fault Refusal :=
  ldIdxMem .x (.dirY d) s

/-- `LDY $nnnn,X` (R372, mode R246); cycles 4+x+p. -/
def execLdyAbsX (a : Word16) (s : State) : Host.Outcome State Fault Refusal :=
  ldIdxMem .y (.absX a) s

/-- `LDX $nnnn,Y` (R371, mode R246); cycles 4+x+p. -/
def execLdxAbsY (a : Word16) (s : State) : Host.Outcome State Fault Refusal :=
  ldIdxMem .x (.absY a) s

/-- `CPY #$nn / #$nnnn` (R376, mode R256); cycles 2+x. -/
def execCpyImm (v : Word16) (s : State) : Host.Outcome State Fault Refusal :=
  cpIdxImm .y v s

/-- `CPY $nn` (R376, mode R248); cycles 3+x+w. -/
def execCpyDir (d : Byte) (s : State) : Host.Outcome State Fault Refusal :=
  cpIdxMem .y (.dir d) s

/-- `INY` (R378, mode R257); cycles 2. -/
def execIny (s : State) : Host.Outcome State Fault Refusal :=
  stepIdx .y true s

/-- `DEX` (R379, mode R257); cycles 2. -/
def execDex (s : State) : Host.Outcome State Fault Refusal :=
  stepIdx .x false s

/-- `CPY $nnnn` (R376, mode R244); cycles 4+x. -/
def execCpyAbs (a : Word16) (s : State) : Host.Outcome State Fault Refusal :=
  cpIdxMem .y (.abs a) s

/-- `CPX #$nn / #$nnnn` (R375, mode R256); cycles 2+x. -/
def execCpxImm (v : Word16) (s : State) : Host.Outcome State Fault Refusal :=
  cpIdxImm .x v s

/-- `CPX $nn` (R375, mode R248); cycles 3+x+w. -/
def execCpxDir (d : Byte) (s : State) : Host.Outcome State Fault Refusal :=
  cpIdxMem .x (.dir d) s

/-- `INX` (R377, mode R257); cycles 2. -/
def execInx (s : State) : Host.Outcome State Fault Refusal :=
  stepIdx .x true s

/-- `CPX $nnnn` (R375, mode R244); cycles 4+x. -/
def execCpxAbs (a : Word16) (s : State) : Host.Outcome State Fault Refusal :=
  cpIdxMem .x (.abs a) s

end Sys2Proof.Machine
end

