-- ==== Sys2Proof/Machine/IrOps.lean ====
section
/-! DEFINITION. The IR ops (40_ir.md R163 to R190): the meaning of one node, evaluated at index `vals.length` of the arena (R161,
R162), and the two buses and the state namespace its memory ops reach. -/

namespace Sys2Proof.Machine

/-! ### The register bus (R30, R185, R186) -/

/-- The value of a slot by ordinal, none above 18 (R30, R185). -/
def readSlot (r : Regs) (slot : Nat) : Option Nat :=
  match slot with
  | 0 => some r.a.toNat
  | 1 => some r.b.toNat
  | 2 => some r.d.toNat
  | 3 => some r.x.toNat
  | 4 => some r.y.toNat
  | 5 => some r.s.toNat
  | 6 => some r.pc.toNat
  | 7 => some r.pbr.toNat
  | 8 => some r.dbr.toNat
  | 9 => some (bit r.n)
  | 10 => some (bit r.v)
  | 11 => some (bit r.m)
  | 12 => some (bit r.xf)
  | 13 => some (bit r.df)
  | 14 => some (bit r.i)
  | 15 => some (bit r.z)
  | 16 => some (bit r.c)
  | 17 => some (bit r.e)
  | 18 => some r.cycle.toNat
  | _ => none

/-- Bit 0 of a stored value, for a flag slot (R186: masked to 1 bit). -/
def bit0 (v : Nat) : Bool := v % 2 == 1

/-- Writing a slot by ordinal, masked to its width, none above 18 (R32, R186). -/
def writeSlot (r : Regs) (slot v : Nat) : Option Regs :=
  match slot with
  | 0 => some { r with a := BitVec.ofNat 8 v }
  | 1 => some { r with b := BitVec.ofNat 8 v }
  | 2 => some { r with d := BitVec.ofNat 16 v }
  | 3 => some { r with x := BitVec.ofNat 16 v }
  | 4 => some { r with y := BitVec.ofNat 16 v }
  | 5 => some { r with s := BitVec.ofNat 16 v }
  | 6 => some { r with pc := BitVec.ofNat 16 v }
  | 7 => some { r with pbr := BitVec.ofNat 8 v }
  | 8 => some { r with dbr := BitVec.ofNat 8 v }
  | 9 => some { r with n := bit0 v }
  | 10 => some { r with v := bit0 v }
  | 11 => some { r with m := bit0 v }
  | 12 => some { r with xf := bit0 v }
  | 13 => some { r with df := bit0 v }
  | 14 => some { r with i := bit0 v }
  | 15 => some { r with z := bit0 v }
  | 16 => some { r with c := bit0 v }
  | 17 => some { r with e := bit0 v }
  | 18 => some { r with cycle := BitVec.ofNat 64 v }
  | _ => none

/-! ### Values, arguments and errors -/

/-- A value masked to its width (R160). -/
def IrVal.of (wid n : Nat) : IrVal := { val := BitVec.ofNat 64 (n % 2 ^ wid), wid := wid }

/-- The width-0 result of MemState and Assert (R179, R184). -/
def IrVal.none : IrVal := { val := 0#64, wid := 0 }

/-- StructuralIRError at the node being evaluated (R190, R503). -/
def irFail {α : Type} (why : IrReason) : Exec α := fun s => .error (.structuralIr s.vals.length why s) s

/-- The value of an argument handle; a handle at or beyond the node is an error (R142, R161, R190). -/
def irArg (h : Handle) : Exec IrVal := fun s =>
  match s.vals[h.toNat]? with
  | some v => .ok v s
  | none => irFail .badHandle s

/-- The decoded node a handle names. -/
def nodeAt (s : State) (h : Handle) : Option Instr :=
  match s.arena[h.toNat]? with
  | some w => (decodeNode w).toOption
  | none => none

/-- The number a Const node stands for: its 32 bits sign- or zero-extended, modulo 2^num_bits (R163). -/
def constNumber (numBits isSigned : Byte) (value : BitVec 32) : Nat :=
  (if isSigned == 0#8 then value.toNat else (value.signExtend 64).toNat) % 2 ^ numBits.toNat

/-- Is a node a Const? -/
def isConstNode : Option Instr → Bool
  | some (.irConst _ _ _) => true
  | _ => false

/-- The value of an argument that must be a Const (R126). -/
def irConstArg (h : Handle) : Exec Nat := do
  let v ← irArg h
  let s ← get
  if isConstNode (nodeAt s h) then pure v.val.toNat else irFail .notConst

/-- A result of a width that must lie in 0 to 64 (R190). -/
def irResult (wid n : Nat) : Exec IrVal :=
  if wid ≤ 64 then pure (IrVal.of wid n) else irFail .badWidth

/-- Running a node's rule: its value becomes the next entry of the value array (R160). -/
def runNode (rule : Exec IrVal) (s : State) : Host.Outcome State Fault Refusal :=
  match rule s with
  | .ok v t => .next { t with vals := t.vals ++ [v] }
  | .error f _ => .fault f

/-- An op over two values whose width is that of the first (R166 to R170). -/
def binaryNode (f : Nat → Nat → Nat → Nat) (a b : Handle) : Exec IrVal := do
  let x ← irArg a
  let y ← irArg b
  pure (IrVal.of x.wid (f x.wid x.val.toNat y.val.toNat))

/-- The argument handles of an IR op (R123); none for the constant shapes and for guest instructions. -/
def irHandles : Instr → List Handle
  | .irNot a => [a]
  | .irAdd a b | .irSub a b | .irAnd a b | .irOr a b | .irXor a b | .irShiftLeft a b | .irShiftRight a b | .irCat a b => [a, b]
  | .irZext a b | .irEq a b | .irNeq a b | .irLoad8 a b | .irLoad16 a b | .irLoad32 a b | .irLoad64 a b => [a, b]
  | .irStateRead a b | .irAssert a b => [a, b]
  | .irExtract a b d | .irTernary a b d | .irMemState a b d | .irStore8 a b d | .irStore16 a b d => [a, b, d]
  | .irStore32 a b d | .irStore64 a b d | .irStateWrite a b d => [a, b, d]
  | _ => []

/-- A slot the op does not use that names a node at or beyond index `n`: R142 bounds every argument of a node that is not the
sentinel, used or not. The constant shapes have no argument slots (R121, R122). -/
def strayArgument (w : Node) (i : Instr) (n : Nat) : Bool :=
  match i with
  | .irConst _ _ _ | .irConst48 _ => false
  | _ =>
    ([Node.arg0 w, Node.arg1 w, Node.arg2 w].drop (irHandles i).length).any
      (fun h => h != sentinel && decide (n ≤ h.toNat))

/-! ### The memory context (R179, R188) -/

/-- The bus and alive handles of a MemState node. -/
def memStateHandles : Option Instr → Option (Handle × Handle)
  | some (.irMemState bus _ alive) => some (bus, alive)
  | _ => none

/-- The bus and the predicate of the MemState node a handle names (R179, R180). -/
def irMemState (ms : Handle) : Exec (Nat × Bool) := do
  let _ ← irArg ms
  let s ← get
  match memStateHandles (nodeAt s ms) with
  | some (bus, alive) => do
    let b ← irArg bus
    let live ← irArg alive
    pure (b.val.toNat, live.val != 0#64)
  | none => irFail .notMemState

/-- `n` bytes of guest memory from `a` upwards, little-endian, each address checked before its access (R187, R73). -/
def loadBytes (a : Addr) : Nat → Exec Nat
  | 0 => pure 0
  | n + 1 => fun s =>
    if a.toNat < s.cfg.memBytes then
      match loadBytes (a + 1#24) n s with
      | .ok rest t => .ok ((Memory.read s.mem a.toNat).toNat + 256 * rest) t
      | .error f t => .error f t
    else .error (.outOfRangeMemory a .read s) s

/-- The low `n` bytes of a value to guest memory from `a` upwards (R187, R74). -/
def storeBytes (a : Addr) (v : Nat) : Nat → Exec Unit
  | 0 => pure ()
  | n + 1 => fun s =>
    if a.toNat < s.cfg.memBytes then
      storeBytes (a + 1#24) (v / 256) n { s with mem := Memory.write s.mem a.toNat (BitVec.ofNat 8 v) }
    else .error (.outOfRangeMemory a .write s) s

/-- `LoadN` with `n = N/8` bytes (R180): 0 when dead, else the register bus or guest memory. -/
def loadNode (n : Nat) (ms addr : Handle) : Exec IrVal := do
  let (bus, alive) ← irMemState ms
  let a ← irArg addr
  if !alive then pure (IrVal.of (8 * n) 0)
  else if bus = 0 then do
    let s ← get
    match readSlot s.r a.val.toNat with
    | some v => pure (IrVal.of (8 * n) v)
    | none => irFail .badRegister
  else do
    let v ← loadBytes (BitVec.ofNat 24 a.val.toNat) n
    pure (IrVal.of (8 * n) v)

/-- `StoreN` with `n = N/8` bytes (R183): no effect when dead; its value is the stored one. -/
def storeNode (n : Nat) (ms addr value : Handle) : Exec IrVal := do
  let (bus, alive) ← irMemState ms
  let a ← irArg addr
  let v ← irArg value
  if alive then
    if bus = 0 then do
      let s ← get
      match writeSlot s.r a.val.toNat v.val.toNat with
      | some r => modR (fun _ => r)
      | none => irFail .badRegister
    else storeBytes (BitVec.ofNat 24 a.val.toNat) v.val.toNat n
  pure (IrVal.of (8 * n) v.val.toNat)

/-! ### The state namespace (R181, R182) -/

/-- `n` bytes of the state namespace, little-endian. -/
def auxRead (m : Memory) (a : Nat) : Nat → Nat
  | 0 => 0
  | n + 1 => (Memory.read m a).toNat + 256 * auxRead m (a + 1) n

/-- The low `n` bytes of a value into the state namespace. -/
def auxWrite (m : Memory) (a v : Nat) : Nat → Memory
  | 0 => m
  | n + 1 => auxWrite (Memory.write m a (BitVec.ofNat 8 v)) (a + 1) (v / 256) n

/-- The byte count of a state access, a Const, of at most 8 bytes (R126, R181, R190). -/
def irSize (size : Handle) : Exec Nat := do
  let n ← irConstArg size
  if n ≤ 8 then pure n else irFail .badWidth

/-! ### The rules, one an op -/

/-- The address a load node's value came from, if the handle names one (R500: what AssertFailure records, log 8). -/
def loadedFrom (s : State) (h : Handle) : Option Addr :=
  let address (a : Handle) : Option Addr :=
    match s.vals[a.toNat]? with
    | some v => some (BitVec.ofNat 24 v.val.toNat)
    | none => none
  match nodeAt s h with
  | some (.irLoad8 _ a) => address a
  | some (.irLoad16 _ a) => address a
  | some (.irLoad32 _ a) => address a
  | some (.irLoad64 _ a) => address a
  | _ => none

/-- `Const(num_bits, is_signed, value)` (R163). -/
def execIrConst (numBits isSigned : Byte) (value : BitVec 32) (s : State) : Host.Outcome State Fault Refusal :=
  runNode
    (if constWidthOk numBits then
      pure (IrVal.of numBits.toNat
        (if isSigned == 0#8 then value.toNat else (value.signExtend 64).toNat))
    else irFail .badWidth) s

/-- `Const48`: reserved, a structural error (R164). -/
def execIrConst48 (_imm48 : BitVec 48) (s : State) : Host.Outcome State Fault Refusal :=
  runNode (irFail .reservedConst48) s

/-- `Not(a)` (R165). -/
def execIrNot (a : Handle) (s : State) : Host.Outcome State Fault Refusal :=
  runNode (do
    let x ← irArg a
    pure (IrVal.of x.wid (~~~x.val).toNat)) s

/-- `Add(a, b)` (R166). -/
def execIrAdd (a b : Handle) (s : State) : Host.Outcome State Fault Refusal :=
  runNode (binaryNode (fun _ x y => x + y) a b) s

/-- `Sub(a, b)` (R167): subtraction modulo 2^w; `b` is reduced first, so that a wider `b` is truncated. -/
def execIrSub (a b : Handle) (s : State) : Host.Outcome State Fault Refusal :=
  runNode (binaryNode (fun w x y => x + (2 ^ w - y % 2 ^ w)) a b) s

/-- `And(a, b)` (R168). -/
def execIrAnd (a b : Handle) (s : State) : Host.Outcome State Fault Refusal :=
  runNode (binaryNode (fun _ x y => x &&& y) a b) s

/-- `Or(a, b)` (R169). -/
def execIrOr (a b : Handle) (s : State) : Host.Outcome State Fault Refusal :=
  runNode (binaryNode (fun _ x y => x ||| y) a b) s

/-- `Xor(a, b)` (R170). -/
def execIrXor (a b : Handle) (s : State) : Host.Outcome State Fault Refusal :=
  runNode (binaryNode (fun _ x y => x ^^^ y) a b) s

/-- `ShiftLeft(a, k)`: widening, loses no bit (R171). -/
def execIrShiftLeft (a k : Handle) (s : State) : Host.Outcome State Fault Refusal :=
  runNode (do
    let x ← irArg a
    let n ← irConstArg k
    if x.wid + n ≤ 64 then irResult (x.wid + n) (x.val.toNat * 2 ^ n) else irFail .badWidth) s

/-- `ShiftRight(a, k)`: narrowing (R172). -/
def execIrShiftRight (a k : Handle) (s : State) : Host.Outcome State Fault Refusal :=
  runNode (do
    let x ← irArg a
    let n ← irConstArg k
    if n ≤ x.wid then irResult (x.wid - n) (x.val.toNat / 2 ^ n) else irFail .badRange) s

/-- `Cat(a, b)`: `a` is the high part (R173). -/
def execIrCat (a b : Handle) (s : State) : Host.Outcome State Fault Refusal :=
  runNode (do
    let x ← irArg a
    let y ← irArg b
    irResult (x.wid + y.wid) (x.val.toNat * 2 ^ y.wid + y.val.toNat)) s

/-- `Extract(a, lsb, w)` (R174). -/
def execIrExtract (a lsb w : Handle) (s : State) : Host.Outcome State Fault Refusal :=
  runNode (do
    let x ← irArg a
    let from_ ← irConstArg lsb
    let width ← irConstArg w
    if from_ + width ≤ x.wid then irResult width (x.val.toNat / 2 ^ from_) else irFail .badRange) s

/-- `Zext(a, n)` (R175). -/
def execIrZext (a n : Handle) (s : State) : Host.Outcome State Fault Refusal :=
  runNode (do
    let x ← irArg a
    let width ← irConstArg n
    if x.wid ≤ width then irResult width x.val.toNat else irFail .badRange) s

/-- `Eq(a, b)`: width 1, operands compare as numbers (R176). -/
def execIrEq (a b : Handle) (s : State) : Host.Outcome State Fault Refusal :=
  runNode (do
    let x ← irArg a
    let y ← irArg b
    pure (IrVal.of 1 (bit (x.val == y.val)))) s

/-- `Neq(a, b)` (R177). -/
def execIrNeq (a b : Handle) (s : State) : Host.Outcome State Fault Refusal :=
  runNode (do
    let x ← irArg a
    let y ← irArg b
    pure (IrVal.of 1 (bit (x.val != y.val)))) s

/-- `Ternary(cond, a, b)`: value and width of the selected operand (R178). -/
def execIrTernary (cond a b : Handle) (s : State) : Host.Outcome State Fault Refusal :=
  runNode (do
    let q ← irArg cond
    let x ← irArg a
    let y ← irArg b
    pure (if q.val != 0#64 then x else y)) s

/-- `MemState(bus, cycle, alive)`: carries no data; `alive` is a 1-bit predicate, another width is a mismatch (R179, R190). -/
def execIrMemState (bus cyc alive : Handle) (s : State) : Host.Outcome State Fault Refusal :=
  runNode (do
    let b ← irConstArg bus
    let _ ← irArg cyc
    let live ← irArg alive
    if b ≤ 1 then (if live.wid = 1 then pure IrVal.none else irFail .badWidth) else irFail .badBus) s

/-- `Load8(ms, addr)` (R180). -/
def execIrLoad8 (ms addr : Handle) (s : State) : Host.Outcome State Fault Refusal :=
  runNode (loadNode 1 ms addr) s

/-- `Load16(ms, addr)` (R180). -/
def execIrLoad16 (ms addr : Handle) (s : State) : Host.Outcome State Fault Refusal :=
  runNode (loadNode 2 ms addr) s

/-- `Load32(ms, addr)` (R180). -/
def execIrLoad32 (ms addr : Handle) (s : State) : Host.Outcome State Fault Refusal :=
  runNode (loadNode 4 ms addr) s

/-- `Load64(ms, addr)` (R180). -/
def execIrLoad64 (ms addr : Handle) (s : State) : Host.Outcome State Fault Refusal :=
  runNode (loadNode 8 ms addr) s

/-- `Store8(ms, addr, value)` (R183). -/
def execIrStore8 (ms addr value : Handle) (s : State) : Host.Outcome State Fault Refusal :=
  runNode (storeNode 1 ms addr value) s

/-- `Store16(ms, addr, value)` (R183). -/
def execIrStore16 (ms addr value : Handle) (s : State) : Host.Outcome State Fault Refusal :=
  runNode (storeNode 2 ms addr value) s

/-- `Store32(ms, addr, value)` (R183). -/
def execIrStore32 (ms addr value : Handle) (s : State) : Host.Outcome State Fault Refusal :=
  runNode (storeNode 4 ms addr value) s

/-- `Store64(ms, addr, value)` (R183). -/
def execIrStore64 (ms addr value : Handle) (s : State) : Host.Outcome State Fault Refusal :=
  runNode (storeNode 8 ms addr value) s

/-- `StateRead(offset, size)` (R181). -/
def execIrStateRead (offset size : Handle) (s : State) : Host.Outcome State Fault Refusal :=
  runNode (do
    let o ← irArg offset
    let n ← irSize size
    let t ← get
    pure (IrVal.of (8 * n) (auxRead t.aux o.val.toNat n))) s

/-- `StateWrite(offset, size, value)` (R182). -/
def execIrStateWrite (offset size value : Handle) (s : State) : Host.Outcome State Fault Refusal :=
  runNode (do
    let o ← irArg offset
    let n ← irSize size
    let v ← irArg value
    modify (fun t => { t with aux := auxWrite t.aux o.val.toNat v.val.toNat n })
    pure (IrVal.of (8 * n) v.val.toNat)) s

/-- `Assert(value, expected)`: no value; AssertFailure when they differ (R184, R502). -/
def execIrAssert (value expected : Handle) (s : State) : Host.Outcome State Fault Refusal :=
  runNode (do
    let x ← irArg value
    let y ← irArg expected
    if x.val == y.val then pure IrVal.none
    else fun t => .error (.assertFailure (loadedFrom t value) y.val x.val t) t) s

end Sys2Proof.Machine
end

