-- ==== Sys2Proof/Machine/Rmw.lean ====
section
/-! DEFINITION. Read-modify-write, BIT and STZ (45_rmw_bit_stz.md R340 to R348), one meaning a row of the opcode table. -/

namespace Sys2Proof.Machine

/-- `ASL $nn` (R341, mode R248); cycles 5+2m+w. -/
def execAslDir (d : Byte) (s : State) : Host.Outcome State Fault Refusal :=
  rmwMem .asl (.dir d) s

/-- `ASL A` (R341, mode R257); cycles 2. -/
def execAslAcc (s : State) : Host.Outcome State Fault Refusal :=
  rmwAcc .asl s

/-- `ASL $nnnn` (R341, mode R244); cycles 6+2m. -/
def execAslAbs (a : Word16) (s : State) : Host.Outcome State Fault Refusal :=
  rmwMem .asl (.abs a) s

/-- `ASL $nn,X` (R341, mode R249); cycles 6+2m+w. -/
def execAslDirX (d : Byte) (s : State) : Host.Outcome State Fault Refusal :=
  rmwMem .asl (.dirX d) s

/-- `INC A` (R345, mode R257); cycles 2. -/
def execIncAcc (s : State) : Host.Outcome State Fault Refusal :=
  rmwAcc .inc s

/-- `ASL $nnnn,X` (R341, mode R246); cycles 7+2m. -/
def execAslAbsX (a : Word16) (s : State) : Host.Outcome State Fault Refusal :=
  rmwMem .asl (.absX a) s

/-- `BIT $nn` (R347, mode R248); cycles 3+m+w. -/
def execBitDir (d : Byte) (s : State) : Host.Outcome State Fault Refusal :=
  bitMem (.dir d) s

/-- `ROL $nn` (R342, mode R248); cycles 5+2m+w. -/
def execRolDir (d : Byte) (s : State) : Host.Outcome State Fault Refusal :=
  rmwMem .rol (.dir d) s

/-- `ROL A` (R342, mode R257); cycles 2. -/
def execRolAcc (s : State) : Host.Outcome State Fault Refusal :=
  rmwAcc .rol s

/-- `BIT $nnnn` (R347, mode R244); cycles 4+m. -/
def execBitAbs (a : Word16) (s : State) : Host.Outcome State Fault Refusal :=
  bitMem (.abs a) s

/-- `ROL $nnnn` (R342, mode R244); cycles 6+2m. -/
def execRolAbs (a : Word16) (s : State) : Host.Outcome State Fault Refusal :=
  rmwMem .rol (.abs a) s

/-- `BIT $nn,X` (R347, mode R249); cycles 4+m+w. -/
def execBitDirX (d : Byte) (s : State) : Host.Outcome State Fault Refusal :=
  bitMem (.dirX d) s

/-- `ROL $nn,X` (R342, mode R249); cycles 6+2m+w. -/
def execRolDirX (d : Byte) (s : State) : Host.Outcome State Fault Refusal :=
  rmwMem .rol (.dirX d) s

/-- `DEC A` (R346, mode R257); cycles 2. -/
def execDecAcc (s : State) : Host.Outcome State Fault Refusal :=
  rmwAcc .dec s

/-- `BIT $nnnn,X` (R347, mode R246); cycles 4+m+p. -/
def execBitAbsX (a : Word16) (s : State) : Host.Outcome State Fault Refusal :=
  bitMem (.absX a) s

/-- `ROL $nnnn,X` (R342, mode R246); cycles 7+2m. -/
def execRolAbsX (a : Word16) (s : State) : Host.Outcome State Fault Refusal :=
  rmwMem .rol (.absX a) s

/-- `LSR $nn` (R343, mode R248); cycles 5+2m+w. -/
def execLsrDir (d : Byte) (s : State) : Host.Outcome State Fault Refusal :=
  rmwMem .lsr (.dir d) s

/-- `LSR A` (R343, mode R257); cycles 2. -/
def execLsrAcc (s : State) : Host.Outcome State Fault Refusal :=
  rmwAcc .lsr s

/-- `LSR $nnnn` (R343, mode R244); cycles 6+2m. -/
def execLsrAbs (a : Word16) (s : State) : Host.Outcome State Fault Refusal :=
  rmwMem .lsr (.abs a) s

/-- `LSR $nn,X` (R343, mode R249); cycles 6+2m+w. -/
def execLsrDirX (d : Byte) (s : State) : Host.Outcome State Fault Refusal :=
  rmwMem .lsr (.dirX d) s

/-- `LSR $nnnn,X` (R343, mode R246); cycles 7+2m. -/
def execLsrAbsX (a : Word16) (s : State) : Host.Outcome State Fault Refusal :=
  rmwMem .lsr (.absX a) s

/-- `STZ $nn` (R348, mode R248); cycles 3+m+w. -/
def execStzDir (d : Byte) (s : State) : Host.Outcome State Fault Refusal :=
  storeMem widthA (fun _ => 0x0000#16) (.dir d) s

/-- `ROR $nn` (R344, mode R248); cycles 5+2m+w. -/
def execRorDir (d : Byte) (s : State) : Host.Outcome State Fault Refusal :=
  rmwMem .ror (.dir d) s

/-- `ROR A` (R344, mode R257); cycles 2. -/
def execRorAcc (s : State) : Host.Outcome State Fault Refusal :=
  rmwAcc .ror s

/-- `ROR $nnnn` (R344, mode R244); cycles 6+2m. -/
def execRorAbs (a : Word16) (s : State) : Host.Outcome State Fault Refusal :=
  rmwMem .ror (.abs a) s

/-- `STZ $nn,X` (R348, mode R249); cycles 4+m+w. -/
def execStzDirX (d : Byte) (s : State) : Host.Outcome State Fault Refusal :=
  storeMem widthA (fun _ => 0x0000#16) (.dirX d) s

/-- `ROR $nn,X` (R344, mode R249); cycles 6+2m+w. -/
def execRorDirX (d : Byte) (s : State) : Host.Outcome State Fault Refusal :=
  rmwMem .ror (.dirX d) s

/-- `ROR $nnnn,X` (R344, mode R246); cycles 7+2m. -/
def execRorAbsX (a : Word16) (s : State) : Host.Outcome State Fault Refusal :=
  rmwMem .ror (.absX a) s

/-- `BIT #$nn / #$nnnn` (R347, mode R256); cycles 2+m. -/
def execBitImm (v : Word16) (s : State) : Host.Outcome State Fault Refusal :=
  bitImm v s

/-- `STZ $nnnn` (R348, mode R244); cycles 4+m. -/
def execStzAbs (a : Word16) (s : State) : Host.Outcome State Fault Refusal :=
  storeMem widthA (fun _ => 0x0000#16) (.abs a) s

/-- `STZ $nnnn,X` (R348, mode R246); cycles 5+m. -/
def execStzAbsX (a : Word16) (s : State) : Host.Outcome State Fault Refusal :=
  storeMem widthA (fun _ => 0x0000#16) (.absX a) s

/-- `DEC $nn` (R346, mode R248); cycles 5+2m+w. -/
def execDecDir (d : Byte) (s : State) : Host.Outcome State Fault Refusal :=
  rmwMem .dec (.dir d) s

/-- `DEC $nnnn` (R346, mode R244); cycles 6+2m. -/
def execDecAbs (a : Word16) (s : State) : Host.Outcome State Fault Refusal :=
  rmwMem .dec (.abs a) s

/-- `DEC $nn,X` (R346, mode R249); cycles 6+2m+w. -/
def execDecDirX (d : Byte) (s : State) : Host.Outcome State Fault Refusal :=
  rmwMem .dec (.dirX d) s

/-- `DEC $nnnn,X` (R346, mode R246); cycles 7+2m. -/
def execDecAbsX (a : Word16) (s : State) : Host.Outcome State Fault Refusal :=
  rmwMem .dec (.absX a) s

/-- `INC $nn` (R345, mode R248); cycles 5+2m+w. -/
def execIncDir (d : Byte) (s : State) : Host.Outcome State Fault Refusal :=
  rmwMem .inc (.dir d) s

/-- `INC $nnnn` (R345, mode R244); cycles 6+2m. -/
def execIncAbs (a : Word16) (s : State) : Host.Outcome State Fault Refusal :=
  rmwMem .inc (.abs a) s

/-- `INC $nn,X` (R345, mode R249); cycles 6+2m+w. -/
def execIncDirX (d : Byte) (s : State) : Host.Outcome State Fault Refusal :=
  rmwMem .inc (.dirX d) s

/-- `INC $nnnn,X` (R345, mode R246); cycles 7+2m. -/
def execIncAbsX (a : Word16) (s : State) : Host.Outcome State Fault Refusal :=
  rmwMem .inc (.absX a) s

end Sys2Proof.Machine
end

