-- ==== Sys2Proof/Machine/Stack.lean ====
section
/-! DEFINITION. Pushes and pulls (48_stack.md R440 to R454). -/

namespace Sys2Proof.Machine

/-- `PLA`: A after the first pull, B after the second when M = 0, then N and Z (R442). -/
def pullA : Exec Unit := do
  modR (Regs.tick 2)
  let lo ← pull8
  modR (fun r => { r with a := lo })
  let r ← readR
  match widthA r with
  | .w8 => pure ()
  | .w16 => do
    let hi ← pull8
    modR (fun r => { r with b := hi })
  modR (fun r => setNZ (widthA r) (loadA r) r)

/-- `PHP` (R447, mode R257); cycles 3. -/
def execPhp (s : State) : Host.Outcome State Fault Refusal :=
  pushAt (fun _ => .w8) (fun r => zext16 (packFlags r)) s

/-- `PHD` (R449, mode R257); cycles 4. -/
def execPhd (s : State) : Host.Outcome State Fault Refusal :=
  pushAt (fun _ => .w16) (fun r => r.d) s

/-- `PLP` (R448, mode R257); cycles 4. -/
def execPlp (s : State) : Host.Outcome State Fault Refusal :=
  pullAt (fun _ => .w8) (fun v r => unpackFlags (lo8 v) r) s

/-- `PLD` (R450, mode R257); cycles 5. -/
def execPld (s : State) : Host.Outcome State Fault Refusal :=
  pullAt (fun _ => .w16) (fun v r => setNZ16 v { r with d := v }) s

/-- `PHA` (R441, mode R257); cycles 3+m. -/
def execPha (s : State) : Host.Outcome State Fault Refusal :=
  pushAt widthA loadA s

/-- `PHK` (R451, mode R257); cycles 3. -/
def execPhk (s : State) : Host.Outcome State Fault Refusal :=
  pushAt (fun _ => .w8) (fun r => zext16 r.pbr) s

/-- `PHY` (R445, mode R257); cycles 3+x. -/
def execPhy (s : State) : Host.Outcome State Fault Refusal :=
  pushAt widthX (loadIdx .y) s

/-- `PLA` (R442, mode R257); cycles 4+m. -/
def execPla (s : State) : Host.Outcome State Fault Refusal :=
  runGuest 1 pullA s

/-- `PLY` (R446, mode R257); cycles 4+x. -/
def execPly (s : State) : Host.Outcome State Fault Refusal :=
  pullAt widthX (setIdx .y) s

/-- `PHB` (R452, mode R257); cycles 3. -/
def execPhb (s : State) : Host.Outcome State Fault Refusal :=
  pushAt (fun _ => .w8) (fun r => zext16 r.dbr) s

/-- `PLB` (R453, mode R257); cycles 4. -/
def execPlb (s : State) : Host.Outcome State Fault Refusal :=
  pullAt (fun _ => .w8) (fun v r => setNZ8 (lo8 v) { r with dbr := lo8 v }) s

/-- `PHX` (R443, mode R257); cycles 3+x. -/
def execPhx (s : State) : Host.Outcome State Fault Refusal :=
  pushAt widthX (loadIdx .x) s

/-- `PLX` (R444, mode R257); cycles 4+x. -/
def execPlx (s : State) : Host.Outcome State Fault Refusal :=
  pullAt widthX (setIdx .x) s

end Sys2Proof.Machine
end

