-- ==== Sys2Proof/Machine/Transfer.lean ====
section
/-! DEFINITION. Transfers, XBA, XCE, flag set and clear, NOP (47_transfer_flag.md R400 to R422). -/

namespace Sys2Proof.Machine

/-- `XCE`: swap C and E; when E becomes 1, M and X_flag become 1 and S goes to page 1; X and Y are kept (R414). -/
def exchangeCE (r : Regs) : Regs :=
  { r with
    c := r.e, e := r.c
    m := r.m || r.c, xf := r.xf || r.c
    s := stackLock r.c r.s }

/-- `CLC` (R415, mode R257); cycles 2. -/
def execClc (s : State) : Host.Outcome State Fault Refusal :=
  implied 1 (fun r => { r with c := false }) s

/-- `TCS` (R409, mode R257); cycles 2. -/
def execTcs (s : State) : Host.Outcome State Fault Refusal :=
  implied 1 (fun r => storeS (loadA r) r) s

/-- `SEC` (R416, mode R257); cycles 2. -/
def execSec (s : State) : Host.Outcome State Fault Refusal :=
  implied 1 (fun r => { r with c := true }) s

/-- `TSC` (R410, mode R257); cycles 2. -/
def execTsc (s : State) : Host.Outcome State Fault Refusal :=
  implied 1 (fun r => setNZ16 r.s (storeA true r.s r)) s

/-- `CLI` (R417, mode R257); cycles 2. -/
def execCli (s : State) : Host.Outcome State Fault Refusal :=
  implied 1 (fun r => { r with i := false }) s

/-- `TCD` (R411, mode R257); cycles 2. -/
def execTcd (s : State) : Host.Outcome State Fault Refusal :=
  implied 1 (fun r => setNZ16 (loadA r) { r with d := loadA r }) s

/-- `SEI` (R418, mode R257); cycles 2. -/
def execSei (s : State) : Host.Outcome State Fault Refusal :=
  implied 1 (fun r => { r with i := true }) s

/-- `TDC` (R412, mode R257); cycles 2. -/
def execTdc (s : State) : Host.Outcome State Fault Refusal :=
  implied 1 (fun r => setNZ16 r.d (storeA true r.d r)) s

/-- `TXA` (R403, mode R257); cycles 2. -/
def execTxa (s : State) : Host.Outcome State Fault Refusal :=
  implied 1 (fun r => storeResultA (loadIdx .x r) r) s

/-- `TYA` (R404, mode R257); cycles 2. -/
def execTya (s : State) : Host.Outcome State Fault Refusal :=
  implied 1 (fun r => storeResultA (loadIdx .y r) r) s

/-- `TXS` (R407, mode R257); cycles 2. -/
def execTxs (s : State) : Host.Outcome State Fault Refusal :=
  implied 1 (fun r => storeS (loadIdx .x r) r) s

/-- `TXY` (R405, mode R257); cycles 2. -/
def execTxy (s : State) : Host.Outcome State Fault Refusal :=
  implied 1 (fun r => setIdx .y (loadIdx .x r) r) s

/-- `TAY` (R402, mode R257); cycles 2. -/
def execTay (s : State) : Host.Outcome State Fault Refusal :=
  implied 1 (fun r => setIdx .y (loadA r) r) s

/-- `TAX` (R401, mode R257); cycles 2. -/
def execTax (s : State) : Host.Outcome State Fault Refusal :=
  implied 1 (fun r => setIdx .x (loadA r) r) s

/-- `CLV` (R419, mode R257); cycles 2. -/
def execClv (s : State) : Host.Outcome State Fault Refusal :=
  implied 1 (fun r => { r with v := false }) s

/-- `TSX` (R408, mode R257); cycles 2. -/
def execTsx (s : State) : Host.Outcome State Fault Refusal :=
  implied 1 (fun r => setIdx .x r.s r) s

/-- `TYX` (R406, mode R257); cycles 2. -/
def execTyx (s : State) : Host.Outcome State Fault Refusal :=
  implied 1 (fun r => setIdx .x (loadIdx .y r) r) s

/-- `CLD` (R420, mode R257); cycles 2. -/
def execCld (s : State) : Host.Outcome State Fault Refusal :=
  implied 1 (fun r => { r with df := false }) s

/-- `NOP` (R422, mode R257); cycles 2. -/
def execNop (s : State) : Host.Outcome State Fault Refusal :=
  implied 1 (fun r => r) s

/-- `XBA` (R413, mode R257); cycles 3. -/
def execXba (s : State) : Host.Outcome State Fault Refusal :=
  implied 2 (fun r => setNZ8 r.b { r with a := r.b, b := r.a }) s

/-- `SED` (R421, mode R257); cycles 2. -/
def execSed (s : State) : Host.Outcome State Fault Refusal :=
  implied 1 (fun r => { r with df := true }) s

/-- `XCE` (R414, mode R257); cycles 2. -/
def execXce (s : State) : Host.Outcome State Fault Refusal :=
  implied 1 exchangeCE s

end Sys2Proof.Machine
end

