-- ==== Sys2Proof/Machine/Unimplemented.lean ====
section
/-! DEFINITION. The 38 opcodes with an empty dispatch slot (30_encoding.md R113): each raises UnimplementedOpcode before any
effect (60_exceptions.md R501). -/

namespace Sys2Proof.Machine

/-- 0x00 `BRK stack/interrupt`: an empty slot of the dispatch table (R113, R501). -/
def execBrk (s : State) : Host.Outcome State Fault Refusal :=
  unimplemented 0x00#8 s

/-- 0x02 `COP stack/interrupt`: an empty slot of the dispatch table (R113, R501). -/
def execCop (s : State) : Host.Outcome State Fault Refusal :=
  unimplemented 0x02#8 s

/-- 0x04 `TSB d`: an empty slot of the dispatch table (R113, R501). -/
def execTsbDir (s : State) : Host.Outcome State Fault Refusal :=
  unimplemented 0x04#8 s

/-- 0x0C `TSB a`: an empty slot of the dispatch table (R113, R501). -/
def execTsbAbs (s : State) : Host.Outcome State Fault Refusal :=
  unimplemented 0x0C#8 s

/-- 0x13 `ORA (d,s),y`: an empty slot of the dispatch table (R113, R501). -/
def execOraSrIndY (s : State) : Host.Outcome State Fault Refusal :=
  unimplemented 0x13#8 s

/-- 0x14 `TRB d`: an empty slot of the dispatch table (R113, R501). -/
def execTrbDir (s : State) : Host.Outcome State Fault Refusal :=
  unimplemented 0x14#8 s

/-- 0x17 `ORA [d],y`: an empty slot of the dispatch table (R113, R501). -/
def execOraIndLongY (s : State) : Host.Outcome State Fault Refusal :=
  unimplemented 0x17#8 s

/-- 0x1C `TRB a`: an empty slot of the dispatch table (R113, R501). -/
def execTrbAbs (s : State) : Host.Outcome State Fault Refusal :=
  unimplemented 0x1C#8 s

/-- 0x22 `JSL al`: an empty slot of the dispatch table (R113, R501). -/
def execJsl (s : State) : Host.Outcome State Fault Refusal :=
  unimplemented 0x22#8 s

/-- 0x33 `AND (d,s),y`: an empty slot of the dispatch table (R113, R501). -/
def execAndSrIndY (s : State) : Host.Outcome State Fault Refusal :=
  unimplemented 0x33#8 s

/-- 0x37 `AND [d],y`: an empty slot of the dispatch table (R113, R501). -/
def execAndIndLongY (s : State) : Host.Outcome State Fault Refusal :=
  unimplemented 0x37#8 s

/-- 0x42 `WDM 2-byte reserved`: an empty slot of the dispatch table (R113, R501). -/
def execWdm (s : State) : Host.Outcome State Fault Refusal :=
  unimplemented 0x42#8 s

/-- 0x44 `MVP block move`: an empty slot of the dispatch table (R113, R501). -/
def execMvp (s : State) : Host.Outcome State Fault Refusal :=
  unimplemented 0x44#8 s

/-- 0x53 `EOR (d,s),y`: an empty slot of the dispatch table (R113, R501). -/
def execEorSrIndY (s : State) : Host.Outcome State Fault Refusal :=
  unimplemented 0x53#8 s

/-- 0x54 `MVN block move`: an empty slot of the dispatch table (R113, R501). -/
def execMvn (s : State) : Host.Outcome State Fault Refusal :=
  unimplemented 0x54#8 s

/-- 0x57 `EOR [d],y`: an empty slot of the dispatch table (R113, R501). -/
def execEorIndLongY (s : State) : Host.Outcome State Fault Refusal :=
  unimplemented 0x57#8 s

/-- 0x62 `PER stack PC-relative long`: an empty slot of the dispatch table (R113, R501). -/
def execPer (s : State) : Host.Outcome State Fault Refusal :=
  unimplemented 0x62#8 s

/-- 0x6B `RTL stack`: an empty slot of the dispatch table (R113, R501). -/
def execRtl (s : State) : Host.Outcome State Fault Refusal :=
  unimplemented 0x6B#8 s

/-- 0x73 `ADC (d,s),y`: an empty slot of the dispatch table (R113, R501). -/
def execAdcSrIndY (s : State) : Host.Outcome State Fault Refusal :=
  unimplemented 0x73#8 s

/-- 0x77 `ADC [d],y`: an empty slot of the dispatch table (R113, R501). -/
def execAdcIndLongY (s : State) : Host.Outcome State Fault Refusal :=
  unimplemented 0x77#8 s

/-- 0x7C `JMP__a_x (a,x)`: an empty slot of the dispatch table (R113, R501). -/
def execJmpAbsIndX (s : State) : Host.Outcome State Fault Refusal :=
  unimplemented 0x7C#8 s

/-- 0x82 `BRL rl (16-bit relative)`: an empty slot of the dispatch table (R113, R501). -/
def execBrl (s : State) : Host.Outcome State Fault Refusal :=
  unimplemented 0x82#8 s

/-- 0x93 `STA (d,s),y`: an empty slot of the dispatch table (R113, R501). -/
def execStaSrIndY (s : State) : Host.Outcome State Fault Refusal :=
  unimplemented 0x93#8 s

/-- 0x97 `STA [d],y`: an empty slot of the dispatch table (R113, R501). -/
def execStaIndLongY (s : State) : Host.Outcome State Fault Refusal :=
  unimplemented 0x97#8 s

/-- 0xB3 `LDA (d,s),y`: an empty slot of the dispatch table (R113, R501). -/
def execLdaSrIndY (s : State) : Host.Outcome State Fault Refusal :=
  unimplemented 0xB3#8 s

/-- 0xB7 `LDA [d],y`: an empty slot of the dispatch table (R113, R501). -/
def execLdaIndLongY (s : State) : Host.Outcome State Fault Refusal :=
  unimplemented 0xB7#8 s

/-- 0xC2 `REP #imm8`: an empty slot of the dispatch table (R113, R501). -/
def execRep (s : State) : Host.Outcome State Fault Refusal :=
  unimplemented 0xC2#8 s

/-- 0xCB `WAI implied`: an empty slot of the dispatch table (R113, R501). -/
def execWai (s : State) : Host.Outcome State Fault Refusal :=
  unimplemented 0xCB#8 s

/-- 0xD3 `CMP (d,s),y`: an empty slot of the dispatch table (R113, R501). -/
def execCmpSrIndY (s : State) : Host.Outcome State Fault Refusal :=
  unimplemented 0xD3#8 s

/-- 0xD4 `PEI stack (d)`: an empty slot of the dispatch table (R113, R501). -/
def execPei (s : State) : Host.Outcome State Fault Refusal :=
  unimplemented 0xD4#8 s

/-- 0xD7 `CMP [d],y`: an empty slot of the dispatch table (R113, R501). -/
def execCmpIndLongY (s : State) : Host.Outcome State Fault Refusal :=
  unimplemented 0xD7#8 s

/-- 0xDB `STP implied`: an empty slot of the dispatch table (R113, R501). -/
def execStp (s : State) : Host.Outcome State Fault Refusal :=
  unimplemented 0xDB#8 s

/-- 0xDC `JML [a]`: an empty slot of the dispatch table (R113, R501). -/
def execJml (s : State) : Host.Outcome State Fault Refusal :=
  unimplemented 0xDC#8 s

/-- 0xE2 `SEP #imm8`: an empty slot of the dispatch table (R113, R501). -/
def execSep (s : State) : Host.Outcome State Fault Refusal :=
  unimplemented 0xE2#8 s

/-- 0xF3 `SBC (d,s),y`: an empty slot of the dispatch table (R113, R501). -/
def execSbcSrIndY (s : State) : Host.Outcome State Fault Refusal :=
  unimplemented 0xF3#8 s

/-- 0xF4 `PEA stack immediate`: an empty slot of the dispatch table (R113, R501). -/
def execPea (s : State) : Host.Outcome State Fault Refusal :=
  unimplemented 0xF4#8 s

/-- 0xF7 `SBC [d],y`: an empty slot of the dispatch table (R113, R501). -/
def execSbcIndLongY (s : State) : Host.Outcome State Fault Refusal :=
  unimplemented 0xF7#8 s

/-- 0xFC `JSR__a_x (a,x)`: an empty slot of the dispatch table (R113, R501). -/
def execJsrAbsIndX (s : State) : Host.Outcome State Fault Refusal :=
  unimplemented 0xFC#8 s

end Sys2Proof.Machine
end

