-- ==== Sys2Proof/Machine/Dispatch.lean ====
section
/-! DEFINITION. exec: one arm a constructor of Instr, each one direct call of its meaning. -/

namespace Sys2Proof.Machine

def exec (i : Instr) (s : State) : Host.Outcome State Fault Refusal :=
  match i with
  | .irConst numBits isSigned value => Sys2Proof.Machine.execIrConst numBits isSigned value s
  | .irConst48 imm48 => Sys2Proof.Machine.execIrConst48 imm48 s
  | .irNot a => Sys2Proof.Machine.execIrNot a s
  | .irAdd a b => Sys2Proof.Machine.execIrAdd a b s
  | .irSub a b => Sys2Proof.Machine.execIrSub a b s
  | .irAnd a b => Sys2Proof.Machine.execIrAnd a b s
  | .irOr a b => Sys2Proof.Machine.execIrOr a b s
  | .irXor a b => Sys2Proof.Machine.execIrXor a b s
  | .irShiftLeft a k => Sys2Proof.Machine.execIrShiftLeft a k s
  | .irShiftRight a k => Sys2Proof.Machine.execIrShiftRight a k s
  | .irCat a b => Sys2Proof.Machine.execIrCat a b s
  | .irExtract a lsb w => Sys2Proof.Machine.execIrExtract a lsb w s
  | .irZext a n => Sys2Proof.Machine.execIrZext a n s
  | .irEq a b => Sys2Proof.Machine.execIrEq a b s
  | .irNeq a b => Sys2Proof.Machine.execIrNeq a b s
  | .irTernary cond a b => Sys2Proof.Machine.execIrTernary cond a b s
  | .irMemState bus cyc alive => Sys2Proof.Machine.execIrMemState bus cyc alive s
  | .irLoad8 ms addr => Sys2Proof.Machine.execIrLoad8 ms addr s
  | .irLoad16 ms addr => Sys2Proof.Machine.execIrLoad16 ms addr s
  | .irLoad32 ms addr => Sys2Proof.Machine.execIrLoad32 ms addr s
  | .irLoad64 ms addr => Sys2Proof.Machine.execIrLoad64 ms addr s
  | .irStore8 ms addr value => Sys2Proof.Machine.execIrStore8 ms addr value s
  | .irStore16 ms addr value => Sys2Proof.Machine.execIrStore16 ms addr value s
  | .irStore32 ms addr value => Sys2Proof.Machine.execIrStore32 ms addr value s
  | .irStore64 ms addr value => Sys2Proof.Machine.execIrStore64 ms addr value s
  | .irStateRead offset size => Sys2Proof.Machine.execIrStateRead offset size s
  | .irStateWrite offset size value => Sys2Proof.Machine.execIrStateWrite offset size value s
  | .irAssert value expected => Sys2Proof.Machine.execIrAssert value expected s
  | .brk => Sys2Proof.Machine.execBrk s
  | .oraIndX d => Sys2Proof.Machine.execOraIndX d s
  | .cop => Sys2Proof.Machine.execCop s
  | .oraSr off => Sys2Proof.Machine.execOraSr off s
  | .tsbDir => Sys2Proof.Machine.execTsbDir s
  | .oraDir d => Sys2Proof.Machine.execOraDir d s
  | .aslDir d => Sys2Proof.Machine.execAslDir d s
  | .oraIndLong d => Sys2Proof.Machine.execOraIndLong d s
  | .php => Sys2Proof.Machine.execPhp s
  | .oraImm v => Sys2Proof.Machine.execOraImm v s
  | .aslAcc => Sys2Proof.Machine.execAslAcc s
  | .phd => Sys2Proof.Machine.execPhd s
  | .tsbAbs => Sys2Proof.Machine.execTsbAbs s
  | .oraAbs a => Sys2Proof.Machine.execOraAbs a s
  | .aslAbs a => Sys2Proof.Machine.execAslAbs a s
  | .oraLong a => Sys2Proof.Machine.execOraLong a s
  | .bpl d => Sys2Proof.Machine.execBpl d s
  | .oraIndY d => Sys2Proof.Machine.execOraIndY d s
  | .oraInd d => Sys2Proof.Machine.execOraInd d s
  | .oraSrIndY => Sys2Proof.Machine.execOraSrIndY s
  | .trbDir => Sys2Proof.Machine.execTrbDir s
  | .oraDirX d => Sys2Proof.Machine.execOraDirX d s
  | .aslDirX d => Sys2Proof.Machine.execAslDirX d s
  | .oraIndLongY => Sys2Proof.Machine.execOraIndLongY s
  | .clc => Sys2Proof.Machine.execClc s
  | .oraAbsY a => Sys2Proof.Machine.execOraAbsY a s
  | .incAcc => Sys2Proof.Machine.execIncAcc s
  | .tcs => Sys2Proof.Machine.execTcs s
  | .trbAbs => Sys2Proof.Machine.execTrbAbs s
  | .oraAbsX a => Sys2Proof.Machine.execOraAbsX a s
  | .aslAbsX a => Sys2Proof.Machine.execAslAbsX a s
  | .oraLongX a => Sys2Proof.Machine.execOraLongX a s
  | .jsrAbs a => Sys2Proof.Machine.execJsrAbs a s
  | .andIndX d => Sys2Proof.Machine.execAndIndX d s
  | .jsl => Sys2Proof.Machine.execJsl s
  | .andSr off => Sys2Proof.Machine.execAndSr off s
  | .bitDir d => Sys2Proof.Machine.execBitDir d s
  | .andDir d => Sys2Proof.Machine.execAndDir d s
  | .rolDir d => Sys2Proof.Machine.execRolDir d s
  | .andIndLong d => Sys2Proof.Machine.execAndIndLong d s
  | .plp => Sys2Proof.Machine.execPlp s
  | .andImm v => Sys2Proof.Machine.execAndImm v s
  | .rolAcc => Sys2Proof.Machine.execRolAcc s
  | .pld => Sys2Proof.Machine.execPld s
  | .bitAbs a => Sys2Proof.Machine.execBitAbs a s
  | .andAbs a => Sys2Proof.Machine.execAndAbs a s
  | .rolAbs a => Sys2Proof.Machine.execRolAbs a s
  | .andLong a => Sys2Proof.Machine.execAndLong a s
  | .bmi d => Sys2Proof.Machine.execBmi d s
  | .andIndY d => Sys2Proof.Machine.execAndIndY d s
  | .andInd d => Sys2Proof.Machine.execAndInd d s
  | .andSrIndY => Sys2Proof.Machine.execAndSrIndY s
  | .bitDirX d => Sys2Proof.Machine.execBitDirX d s
  | .andDirX d => Sys2Proof.Machine.execAndDirX d s
  | .rolDirX d => Sys2Proof.Machine.execRolDirX d s
  | .andIndLongY => Sys2Proof.Machine.execAndIndLongY s
  | .sec => Sys2Proof.Machine.execSec s
  | .andAbsY a => Sys2Proof.Machine.execAndAbsY a s
  | .decAcc => Sys2Proof.Machine.execDecAcc s
  | .tsc => Sys2Proof.Machine.execTsc s
  | .bitAbsX a => Sys2Proof.Machine.execBitAbsX a s
  | .andAbsX a => Sys2Proof.Machine.execAndAbsX a s
  | .rolAbsX a => Sys2Proof.Machine.execRolAbsX a s
  | .andLongX a => Sys2Proof.Machine.execAndLongX a s
  | .rti => Sys2Proof.Machine.execRti s
  | .eorIndX d => Sys2Proof.Machine.execEorIndX d s
  | .wdm => Sys2Proof.Machine.execWdm s
  | .eorSr off => Sys2Proof.Machine.execEorSr off s
  | .mvp => Sys2Proof.Machine.execMvp s
  | .eorDir d => Sys2Proof.Machine.execEorDir d s
  | .lsrDir d => Sys2Proof.Machine.execLsrDir d s
  | .eorIndLong d => Sys2Proof.Machine.execEorIndLong d s
  | .pha => Sys2Proof.Machine.execPha s
  | .eorImm v => Sys2Proof.Machine.execEorImm v s
  | .lsrAcc => Sys2Proof.Machine.execLsrAcc s
  | .phk => Sys2Proof.Machine.execPhk s
  | .jmpAbs a => Sys2Proof.Machine.execJmpAbs a s
  | .eorAbs a => Sys2Proof.Machine.execEorAbs a s
  | .lsrAbs a => Sys2Proof.Machine.execLsrAbs a s
  | .eorLong a => Sys2Proof.Machine.execEorLong a s
  | .bvc d => Sys2Proof.Machine.execBvc d s
  | .eorIndY d => Sys2Proof.Machine.execEorIndY d s
  | .eorInd d => Sys2Proof.Machine.execEorInd d s
  | .eorSrIndY => Sys2Proof.Machine.execEorSrIndY s
  | .mvn => Sys2Proof.Machine.execMvn s
  | .eorDirX d => Sys2Proof.Machine.execEorDirX d s
  | .lsrDirX d => Sys2Proof.Machine.execLsrDirX d s
  | .eorIndLongY => Sys2Proof.Machine.execEorIndLongY s
  | .cli => Sys2Proof.Machine.execCli s
  | .eorAbsY a => Sys2Proof.Machine.execEorAbsY a s
  | .phy => Sys2Proof.Machine.execPhy s
  | .tcd => Sys2Proof.Machine.execTcd s
  | .jmpLong a => Sys2Proof.Machine.execJmpLong a s
  | .eorAbsX a => Sys2Proof.Machine.execEorAbsX a s
  | .lsrAbsX a => Sys2Proof.Machine.execLsrAbsX a s
  | .eorLongX a => Sys2Proof.Machine.execEorLongX a s
  | .rts => Sys2Proof.Machine.execRts s
  | .adcIndX d => Sys2Proof.Machine.execAdcIndX d s
  | .per => Sys2Proof.Machine.execPer s
  | .adcSr off => Sys2Proof.Machine.execAdcSr off s
  | .stzDir d => Sys2Proof.Machine.execStzDir d s
  | .adcDir d => Sys2Proof.Machine.execAdcDir d s
  | .rorDir d => Sys2Proof.Machine.execRorDir d s
  | .adcIndLong d => Sys2Proof.Machine.execAdcIndLong d s
  | .pla => Sys2Proof.Machine.execPla s
  | .adcImm v => Sys2Proof.Machine.execAdcImm v s
  | .rorAcc => Sys2Proof.Machine.execRorAcc s
  | .rtl => Sys2Proof.Machine.execRtl s
  | .jmpAbsInd a => Sys2Proof.Machine.execJmpAbsInd a s
  | .adcAbs a => Sys2Proof.Machine.execAdcAbs a s
  | .rorAbs a => Sys2Proof.Machine.execRorAbs a s
  | .adcLong a => Sys2Proof.Machine.execAdcLong a s
  | .bvs d => Sys2Proof.Machine.execBvs d s
  | .adcIndY d => Sys2Proof.Machine.execAdcIndY d s
  | .adcInd d => Sys2Proof.Machine.execAdcInd d s
  | .adcSrIndY => Sys2Proof.Machine.execAdcSrIndY s
  | .stzDirX d => Sys2Proof.Machine.execStzDirX d s
  | .adcDirX d => Sys2Proof.Machine.execAdcDirX d s
  | .rorDirX d => Sys2Proof.Machine.execRorDirX d s
  | .adcIndLongY => Sys2Proof.Machine.execAdcIndLongY s
  | .sei => Sys2Proof.Machine.execSei s
  | .adcAbsY a => Sys2Proof.Machine.execAdcAbsY a s
  | .ply => Sys2Proof.Machine.execPly s
  | .tdc => Sys2Proof.Machine.execTdc s
  | .jmpAbsIndX => Sys2Proof.Machine.execJmpAbsIndX s
  | .adcAbsX a => Sys2Proof.Machine.execAdcAbsX a s
  | .rorAbsX a => Sys2Proof.Machine.execRorAbsX a s
  | .adcLongX a => Sys2Proof.Machine.execAdcLongX a s
  | .bra d => Sys2Proof.Machine.execBra d s
  | .staIndX d => Sys2Proof.Machine.execStaIndX d s
  | .brl => Sys2Proof.Machine.execBrl s
  | .staSr off => Sys2Proof.Machine.execStaSr off s
  | .styDir d => Sys2Proof.Machine.execStyDir d s
  | .staDir d => Sys2Proof.Machine.execStaDir d s
  | .stxDir d => Sys2Proof.Machine.execStxDir d s
  | .staIndLong d => Sys2Proof.Machine.execStaIndLong d s
  | .dey => Sys2Proof.Machine.execDey s
  | .bitImm v => Sys2Proof.Machine.execBitImm v s
  | .txa => Sys2Proof.Machine.execTxa s
  | .phb => Sys2Proof.Machine.execPhb s
  | .styAbs a => Sys2Proof.Machine.execStyAbs a s
  | .staAbs a => Sys2Proof.Machine.execStaAbs a s
  | .stxAbs a => Sys2Proof.Machine.execStxAbs a s
  | .staLong a => Sys2Proof.Machine.execStaLong a s
  | .bcc d => Sys2Proof.Machine.execBcc d s
  | .staIndY d => Sys2Proof.Machine.execStaIndY d s
  | .staInd d => Sys2Proof.Machine.execStaInd d s
  | .staSrIndY => Sys2Proof.Machine.execStaSrIndY s
  | .styDirX d => Sys2Proof.Machine.execStyDirX d s
  | .staDirX d => Sys2Proof.Machine.execStaDirX d s
  | .stxDirY d => Sys2Proof.Machine.execStxDirY d s
  | .staIndLongY => Sys2Proof.Machine.execStaIndLongY s
  | .tya => Sys2Proof.Machine.execTya s
  | .staAbsY a => Sys2Proof.Machine.execStaAbsY a s
  | .txs => Sys2Proof.Machine.execTxs s
  | .txy => Sys2Proof.Machine.execTxy s
  | .stzAbs a => Sys2Proof.Machine.execStzAbs a s
  | .staAbsX a => Sys2Proof.Machine.execStaAbsX a s
  | .stzAbsX a => Sys2Proof.Machine.execStzAbsX a s
  | .staLongX a => Sys2Proof.Machine.execStaLongX a s
  | .ldyImm v => Sys2Proof.Machine.execLdyImm v s
  | .ldaIndX d => Sys2Proof.Machine.execLdaIndX d s
  | .ldxImm v => Sys2Proof.Machine.execLdxImm v s
  | .ldaSr off => Sys2Proof.Machine.execLdaSr off s
  | .ldyDir d => Sys2Proof.Machine.execLdyDir d s
  | .ldaDir d => Sys2Proof.Machine.execLdaDir d s
  | .ldxDir d => Sys2Proof.Machine.execLdxDir d s
  | .ldaIndLong d => Sys2Proof.Machine.execLdaIndLong d s
  | .tay => Sys2Proof.Machine.execTay s
  | .ldaImm v => Sys2Proof.Machine.execLdaImm v s
  | .tax => Sys2Proof.Machine.execTax s
  | .plb => Sys2Proof.Machine.execPlb s
  | .ldyAbs a => Sys2Proof.Machine.execLdyAbs a s
  | .ldaAbs a => Sys2Proof.Machine.execLdaAbs a s
  | .ldxAbs a => Sys2Proof.Machine.execLdxAbs a s
  | .ldaLong a => Sys2Proof.Machine.execLdaLong a s
  | .bcs d => Sys2Proof.Machine.execBcs d s
  | .ldaIndY d => Sys2Proof.Machine.execLdaIndY d s
  | .ldaInd d => Sys2Proof.Machine.execLdaInd d s
  | .ldaSrIndY => Sys2Proof.Machine.execLdaSrIndY s
  | .ldyDirX d => Sys2Proof.Machine.execLdyDirX d s
  | .ldaDirX d => Sys2Proof.Machine.execLdaDirX d s
  | .ldxDirY d => Sys2Proof.Machine.execLdxDirY d s
  | .ldaIndLongY => Sys2Proof.Machine.execLdaIndLongY s
  | .clv => Sys2Proof.Machine.execClv s
  | .ldaAbsY a => Sys2Proof.Machine.execLdaAbsY a s
  | .tsx => Sys2Proof.Machine.execTsx s
  | .tyx => Sys2Proof.Machine.execTyx s
  | .ldyAbsX a => Sys2Proof.Machine.execLdyAbsX a s
  | .ldaAbsX a => Sys2Proof.Machine.execLdaAbsX a s
  | .ldxAbsY a => Sys2Proof.Machine.execLdxAbsY a s
  | .ldaLongX a => Sys2Proof.Machine.execLdaLongX a s
  | .cpyImm v => Sys2Proof.Machine.execCpyImm v s
  | .cmpIndX d => Sys2Proof.Machine.execCmpIndX d s
  | .rep => Sys2Proof.Machine.execRep s
  | .cmpSr off => Sys2Proof.Machine.execCmpSr off s
  | .cpyDir d => Sys2Proof.Machine.execCpyDir d s
  | .cmpDir d => Sys2Proof.Machine.execCmpDir d s
  | .decDir d => Sys2Proof.Machine.execDecDir d s
  | .cmpIndLong d => Sys2Proof.Machine.execCmpIndLong d s
  | .iny => Sys2Proof.Machine.execIny s
  | .cmpImm v => Sys2Proof.Machine.execCmpImm v s
  | .dex => Sys2Proof.Machine.execDex s
  | .wai => Sys2Proof.Machine.execWai s
  | .cpyAbs a => Sys2Proof.Machine.execCpyAbs a s
  | .cmpAbs a => Sys2Proof.Machine.execCmpAbs a s
  | .decAbs a => Sys2Proof.Machine.execDecAbs a s
  | .cmpLong a => Sys2Proof.Machine.execCmpLong a s
  | .bne d => Sys2Proof.Machine.execBne d s
  | .cmpIndY d => Sys2Proof.Machine.execCmpIndY d s
  | .cmpInd d => Sys2Proof.Machine.execCmpInd d s
  | .cmpSrIndY => Sys2Proof.Machine.execCmpSrIndY s
  | .pei => Sys2Proof.Machine.execPei s
  | .cmpDirX d => Sys2Proof.Machine.execCmpDirX d s
  | .decDirX d => Sys2Proof.Machine.execDecDirX d s
  | .cmpIndLongY => Sys2Proof.Machine.execCmpIndLongY s
  | .cld => Sys2Proof.Machine.execCld s
  | .cmpAbsY a => Sys2Proof.Machine.execCmpAbsY a s
  | .phx => Sys2Proof.Machine.execPhx s
  | .stp => Sys2Proof.Machine.execStp s
  | .jml => Sys2Proof.Machine.execJml s
  | .cmpAbsX a => Sys2Proof.Machine.execCmpAbsX a s
  | .decAbsX a => Sys2Proof.Machine.execDecAbsX a s
  | .cmpLongX a => Sys2Proof.Machine.execCmpLongX a s
  | .cpxImm v => Sys2Proof.Machine.execCpxImm v s
  | .sbcIndX d => Sys2Proof.Machine.execSbcIndX d s
  | .sep => Sys2Proof.Machine.execSep s
  | .sbcSr off => Sys2Proof.Machine.execSbcSr off s
  | .cpxDir d => Sys2Proof.Machine.execCpxDir d s
  | .sbcDir d => Sys2Proof.Machine.execSbcDir d s
  | .incDir d => Sys2Proof.Machine.execIncDir d s
  | .sbcIndLong d => Sys2Proof.Machine.execSbcIndLong d s
  | .inx => Sys2Proof.Machine.execInx s
  | .sbcImm v => Sys2Proof.Machine.execSbcImm v s
  | .nop => Sys2Proof.Machine.execNop s
  | .xba => Sys2Proof.Machine.execXba s
  | .cpxAbs a => Sys2Proof.Machine.execCpxAbs a s
  | .sbcAbs a => Sys2Proof.Machine.execSbcAbs a s
  | .incAbs a => Sys2Proof.Machine.execIncAbs a s
  | .sbcLong a => Sys2Proof.Machine.execSbcLong a s
  | .beq d => Sys2Proof.Machine.execBeq d s
  | .sbcIndY d => Sys2Proof.Machine.execSbcIndY d s
  | .sbcInd d => Sys2Proof.Machine.execSbcInd d s
  | .sbcSrIndY => Sys2Proof.Machine.execSbcSrIndY s
  | .pea => Sys2Proof.Machine.execPea s
  | .sbcDirX d => Sys2Proof.Machine.execSbcDirX d s
  | .incDirX d => Sys2Proof.Machine.execIncDirX d s
  | .sbcIndLongY => Sys2Proof.Machine.execSbcIndLongY s
  | .sed => Sys2Proof.Machine.execSed s
  | .sbcAbsY a => Sys2Proof.Machine.execSbcAbsY a s
  | .plx => Sys2Proof.Machine.execPlx s
  | .xce => Sys2Proof.Machine.execXce s
  | .jsrAbsIndX => Sys2Proof.Machine.execJsrAbsIndX s
  | .sbcAbsX a => Sys2Proof.Machine.execSbcAbsX a s
  | .incAbsX a => Sys2Proof.Machine.execIncAbsX a s
  | .sbcLongX a => Sys2Proof.Machine.execSbcLongX a s

end Sys2Proof.Machine
end

