-- ==== Sys2Proof/Machine/Loader.lean ====
section
/-! DEFINITION. Placing code from outside the machine: guest bytes at `{PBR, PC}`, or one IR node behind the evaluated nodes of
the arena. What `State.withFetchWord` calls. -/

namespace Sys2Proof.Machine

/-- Writing bytes at ascending offsets of a bank, wrapping in the bank as fetches do (R42, R82). -/
def writeCode (bank : Byte) : Word16 → List Byte → Memory → Memory
  | _, [], m => m
  | off, b :: rest, m => writeCode bank (off + 1#16) rest (Memory.write m (mkAddr bank off).toNat b)

/-- The evaluated part of the arena and of the value array: no node is pending after it. -/
def State.settled (s : State) : State :=
  { s with arena := s.arena.take s.vals.length, vals := s.vals.take s.arena.length }

/-- Guest bytes where the next guest instruction is fetched, no IR node pending. -/
def placeBytes (bytes : List Byte) (s : State) : State :=
  { s.settled with mem := writeCode s.r.pbr s.r.pc bytes s.mem }

/-- The `alive` constant a block's arena starts with, `Const(1, 1)` (R206, R216). -/
def aliveConst : Node := packConst 0x01#8 0x00#8 0x00000001#32

/-- One IR node as the next to be evaluated. Where no node is evaluated yet, the arena first gets the evaluated constant 1
that a block starts with, so that handle 0 names a node (log 14). -/
def placeNode (w : Node) (s : State) : State :=
  let t := s.settled
  if t.vals.isEmpty then { t with arena := [aliveConst, w], vals := [{ val := 1#64, wid := 1 }] }
  else { t with arena := t.arena ++ [w] }

end Sys2Proof.Machine
end

