-- ==== Sys2Proof/Machine/Step.lean ====
section
/-! DEFINITION. One step: the next pending IR node if the interpreter has one (40_ir.md R161, R162), else one guest instruction
(41_emitter_driver.md R223). -/

namespace Sys2Proof.Machine

/-- The index of the node the interpreter evaluates next is `vals.length` (R162); this is that node, if one is pending. -/
def State.pendingNode (s : State) : Option Node := s.arena[s.vals.length]?

/-- Evaluating a node: decode its tag, run its op; an unused tag, or an unused slot that names a node at or beyond this one, is
StructuralIRError (R123, R142, R190). -/
def stepNode (w : Node) (s : State) : Host.Outcome State Fault Refusal :=
  match decodeNode w with
  | .ok i =>
    if strayArgument w i s.vals.length then .fault (.structuralIr s.vals.length .badHandle s) else exec i s
  | .error _ => .fault (.structuralIr s.vals.length .unusedTag s)

/-- One guest instruction: read its bytes at `{PBR, PC}` (a byte out of range faults), decode them, run it (R223). The meaning
starts from the state before the fetches and accounts for them itself (log 5). -/
def stepGuest (s : State) : Host.Outcome State Fault Refusal :=
  match fetchInstr s with
  | .error f _ => .fault f
  | .ok bytes _ =>
    match decode s.ctx (.guest bytes) with
    | .ok i => exec i s
    | .error why => .refused (.undecodable why)

/-- One step of the machine. -/
def step (s : State) : Host.Outcome State Fault Refusal :=
  match s.pendingNode with
  | some w => stepNode w s
  | none => stepGuest s

/-- The state with a table word placed where `step` fetches next: an IR node at the end of the evaluated part of the arena,
guest bytes at `{PBR, PC}` with no node pending (log 13, log 14). -/
def State.withFetchWord (s : State) (nbits w : Nat) : State :=
  if isNodeWord nbits w then placeNode (BitVec.ofNat 64 w) s
  else placeBytes (wordBytes w) s

end Sys2Proof.Machine
end

