-- ==== Sys2Proof/Machine/Forms.lean ====
section
/-! DEFINITION. Names the statements use: which constructor an operation and a mode make (30_encoding.md R110, R112), and the
closed forms of the addressing rules (42_addressing.md R244 to R260) over the register file and memory, with no
sequencing: effective address, added cycles, the operand read, the memory after a store. -/

namespace Sys2Proof.Machine

/-! ### Constructors by operation and mode -/

/-- The immediate form of an operation of the accumulator family. -/
def AluOp.immForm (op : AluOp) (v : Word16) : Instr :=
  match op with
  | .ora => .oraImm v
  | .and => .andImm v
  | .eor => .eorImm v
  | .adc => .adcImm v
  | .sbc => .sbcImm v
  | .cmp => .cmpImm v
  | .lda => .ldaImm v

/-- The memory form of an operation of the accumulator family in a mode, if the map has one. -/
def AluOp.memForm (op : AluOp) (m : Mode) : Option Instr :=
  match m with
  | .dir d =>
    match op with
    | .ora => some (.oraDir d)
    | .and => some (.andDir d)
    | .eor => some (.eorDir d)
    | .adc => some (.adcDir d)
    | .lda => some (.ldaDir d)
    | .cmp => some (.cmpDir d)
    | .sbc => some (.sbcDir d)
  | .dirX d =>
    match op with
    | .ora => some (.oraDirX d)
    | .and => some (.andDirX d)
    | .eor => some (.eorDirX d)
    | .adc => some (.adcDirX d)
    | .lda => some (.ldaDirX d)
    | .cmp => some (.cmpDirX d)
    | .sbc => some (.sbcDirX d)
  | .dirY _ => none
  | .ind d =>
    match op with
    | .ora => some (.oraInd d)
    | .and => some (.andInd d)
    | .eor => some (.eorInd d)
    | .adc => some (.adcInd d)
    | .lda => some (.ldaInd d)
    | .cmp => some (.cmpInd d)
    | .sbc => some (.sbcInd d)
  | .indLong d =>
    match op with
    | .ora => some (.oraIndLong d)
    | .and => some (.andIndLong d)
    | .eor => some (.eorIndLong d)
    | .adc => some (.adcIndLong d)
    | .lda => some (.ldaIndLong d)
    | .cmp => some (.cmpIndLong d)
    | .sbc => some (.sbcIndLong d)
  | .indX d =>
    match op with
    | .ora => some (.oraIndX d)
    | .and => some (.andIndX d)
    | .eor => some (.eorIndX d)
    | .adc => some (.adcIndX d)
    | .lda => some (.ldaIndX d)
    | .cmp => some (.cmpIndX d)
    | .sbc => some (.sbcIndX d)
  | .indY d =>
    match op with
    | .ora => some (.oraIndY d)
    | .and => some (.andIndY d)
    | .eor => some (.eorIndY d)
    | .adc => some (.adcIndY d)
    | .lda => some (.ldaIndY d)
    | .cmp => some (.cmpIndY d)
    | .sbc => some (.sbcIndY d)
  | .sr off =>
    match op with
    | .ora => some (.oraSr off)
    | .and => some (.andSr off)
    | .eor => some (.eorSr off)
    | .adc => some (.adcSr off)
    | .lda => some (.ldaSr off)
    | .cmp => some (.cmpSr off)
    | .sbc => some (.sbcSr off)
  | .abs a =>
    match op with
    | .ora => some (.oraAbs a)
    | .and => some (.andAbs a)
    | .eor => some (.eorAbs a)
    | .adc => some (.adcAbs a)
    | .lda => some (.ldaAbs a)
    | .cmp => some (.cmpAbs a)
    | .sbc => some (.sbcAbs a)
  | .absX a =>
    match op with
    | .ora => some (.oraAbsX a)
    | .and => some (.andAbsX a)
    | .eor => some (.eorAbsX a)
    | .adc => some (.adcAbsX a)
    | .lda => some (.ldaAbsX a)
    | .cmp => some (.cmpAbsX a)
    | .sbc => some (.sbcAbsX a)
  | .absY a =>
    match op with
    | .ora => some (.oraAbsY a)
    | .and => some (.andAbsY a)
    | .eor => some (.eorAbsY a)
    | .adc => some (.adcAbsY a)
    | .lda => some (.ldaAbsY a)
    | .cmp => some (.cmpAbsY a)
    | .sbc => some (.sbcAbsY a)
  | .long a =>
    match op with
    | .ora => some (.oraLong a)
    | .and => some (.andLong a)
    | .eor => some (.eorLong a)
    | .adc => some (.adcLong a)
    | .lda => some (.ldaLong a)
    | .cmp => some (.cmpLong a)
    | .sbc => some (.sbcLong a)
  | .longX a =>
    match op with
    | .ora => some (.oraLongX a)
    | .and => some (.andLongX a)
    | .eor => some (.eorLongX a)
    | .adc => some (.adcLongX a)
    | .lda => some (.ldaLongX a)
    | .cmp => some (.cmpLongX a)
    | .sbc => some (.sbcLongX a)

/-- What a store instruction stores. -/
inductive StoreOp where
  | sta | stz | stx | sty
  deriving DecidableEq, Repr

/-- The width flag of a store: M for STA and STZ, X_flag for STX and STY (R318, R348, R373, R374). -/
def StoreOp.width (op : StoreOp) (r : Regs) : Width :=
  match op with
  | .sta | .stz => widthA r
  | .stx | .sty => widthX r

/-- The 16-bit value a store writes the low bytes of. -/
def StoreOp.value (op : StoreOp) (r : Regs) : Word16 :=
  match op with
  | .sta => cat16 r.b r.a
  | .stz => 0x0000#16
  | .stx => r.x
  | .sty => r.y

/-- The store instruction in a mode, if the map has one. -/
def StoreOp.form (op : StoreOp) (m : Mode) : Option Instr :=
  match m with
  | .dir d =>
    match op with
    | .stz => some (.stzDir d)
    | .sty => some (.styDir d)
    | .sta => some (.staDir d)
    | .stx => some (.stxDir d)
  | .dirX d =>
    match op with
    | .stz => some (.stzDirX d)
    | .sty => some (.styDirX d)
    | .sta => some (.staDirX d)
    | _ => none
  | .dirY d =>
    match op with
    | .stx => some (.stxDirY d)
    | _ => none
  | .ind d =>
    match op with
    | .sta => some (.staInd d)
    | _ => none
  | .indLong d =>
    match op with
    | .sta => some (.staIndLong d)
    | _ => none
  | .indX d =>
    match op with
    | .sta => some (.staIndX d)
    | _ => none
  | .indY d =>
    match op with
    | .sta => some (.staIndY d)
    | _ => none
  | .sr off =>
    match op with
    | .sta => some (.staSr off)
    | _ => none
  | .abs a =>
    match op with
    | .sty => some (.styAbs a)
    | .sta => some (.staAbs a)
    | .stx => some (.stxAbs a)
    | .stz => some (.stzAbs a)
  | .absX a =>
    match op with
    | .sta => some (.staAbsX a)
    | .stz => some (.stzAbsX a)
    | _ => none
  | .absY a =>
    match op with
    | .sta => some (.staAbsY a)
    | _ => none
  | .long a =>
    match op with
    | .sta => some (.staLong a)
    | _ => none
  | .longX a =>
    match op with
    | .sta => some (.staLongX a)
    | _ => none

/-- The accumulator form of a read-modify-write operation. -/
def RmwOp.accForm (op : RmwOp) : Instr :=
  match op with
  | .asl => .aslAcc
  | .rol => .rolAcc
  | .lsr => .lsrAcc
  | .ror => .rorAcc
  | .inc => .incAcc
  | .dec => .decAcc

/-- The memory form of a read-modify-write operation in a mode, if the map has one. -/
def RmwOp.memForm (op : RmwOp) (m : Mode) : Option Instr :=
  match m with
  | .dir d =>
    match op with
    | .asl => some (.aslDir d)
    | .rol => some (.rolDir d)
    | .lsr => some (.lsrDir d)
    | .ror => some (.rorDir d)
    | .dec => some (.decDir d)
    | .inc => some (.incDir d)
  | .dirX d =>
    match op with
    | .asl => some (.aslDirX d)
    | .rol => some (.rolDirX d)
    | .lsr => some (.lsrDirX d)
    | .ror => some (.rorDirX d)
    | .dec => some (.decDirX d)
    | .inc => some (.incDirX d)
  | .dirY _ => none
  | .ind _ => none
  | .indLong _ => none
  | .indX _ => none
  | .indY _ => none
  | .sr _ => none
  | .abs a =>
    match op with
    | .asl => some (.aslAbs a)
    | .rol => some (.rolAbs a)
    | .lsr => some (.lsrAbs a)
    | .ror => some (.rorAbs a)
    | .dec => some (.decAbs a)
    | .inc => some (.incAbs a)
  | .absX a =>
    match op with
    | .asl => some (.aslAbsX a)
    | .rol => some (.rolAbsX a)
    | .lsr => some (.lsrAbsX a)
    | .ror => some (.rorAbsX a)
    | .dec => some (.decAbsX a)
    | .inc => some (.incAbsX a)
  | .absY _ => none
  | .long _ => none
  | .longX _ => none

/-- BIT on memory in a mode, if the map has one. -/
def bitForm (m : Mode) : Option Instr :=
  match m with
  | .dir d => some (.bitDir d)
  | .abs a => some (.bitAbs a)
  | .dirX d => some (.bitDirX d)
  | .absX a => some (.bitAbsX a)
  | _ => none

/-- LDX or LDY from memory in a mode, if the map has one. -/
def Idx.ldForm (i : Idx) (m : Mode) : Option Instr :=
  match m with
  | .dir d =>
    match i with
    | .y => some (.ldyDir d)
    | .x => some (.ldxDir d)
  | .dirX d =>
    match i with
    | .y => some (.ldyDirX d)
    | _ => none
  | .dirY d =>
    match i with
    | .x => some (.ldxDirY d)
    | _ => none
  | .ind _ => none
  | .indLong _ => none
  | .indX _ => none
  | .indY _ => none
  | .sr _ => none
  | .abs a =>
    match i with
    | .y => some (.ldyAbs a)
    | .x => some (.ldxAbs a)
  | .absX a =>
    match i with
    | .y => some (.ldyAbsX a)
    | _ => none
  | .absY a =>
    match i with
    | .x => some (.ldxAbsY a)
    | _ => none
  | .long _ => none
  | .longX _ => none

/-- CPX or CPY against memory in a mode, if the map has one. -/
def Idx.cpForm (i : Idx) (m : Mode) : Option Instr :=
  match m with
  | .dir d =>
    match i with
    | .y => some (.cpyDir d)
    | .x => some (.cpxDir d)
  | .dirX _ => none
  | .dirY _ => none
  | .ind _ => none
  | .indLong _ => none
  | .indX _ => none
  | .indY _ => none
  | .sr _ => none
  | .abs a =>
    match i with
    | .y => some (.cpyAbs a)
    | .x => some (.cpxAbs a)
  | .absX _ => none
  | .absY _ => none
  | .long _ => none
  | .longX _ => none

/-- Every opcode byte of R113 with its constructor. -/
def unimplementedInstrs : List (Byte × Instr) :=
  [(0x00#8, .brk), (0x02#8, .cop), (0x04#8, .tsbDir), (0x0C#8, .tsbAbs),
   (0x13#8, .oraSrIndY), (0x14#8, .trbDir), (0x17#8, .oraIndLongY), (0x1C#8, .trbAbs),
   (0x22#8, .jsl), (0x33#8, .andSrIndY), (0x37#8, .andIndLongY), (0x42#8, .wdm),
   (0x44#8, .mvp), (0x53#8, .eorSrIndY), (0x54#8, .mvn), (0x57#8, .eorIndLongY),
   (0x62#8, .per), (0x6B#8, .rtl), (0x73#8, .adcSrIndY), (0x77#8, .adcIndLongY)]
  ++ [(0x7C#8, .jmpAbsIndX), (0x82#8, .brl), (0x93#8, .staSrIndY), (0x97#8, .staIndLongY),
   (0xB3#8, .ldaSrIndY), (0xB7#8, .ldaIndLongY), (0xC2#8, .rep), (0xCB#8, .wai),
   (0xD3#8, .cmpSrIndY), (0xD4#8, .pei), (0xD7#8, .cmpIndLongY), (0xDB#8, .stp),
   (0xDC#8, .jml), (0xE2#8, .sep), (0xF3#8, .sbcSrIndY), (0xF4#8, .pea),
   (0xF7#8, .sbcIndLongY), (0xFC#8, .jsrAbsIndX)]

/-- The instructions that end a block (R490): branches, jumps, calls and returns. -/
def isTransfer : Instr → Bool
  | .jmpAbs _ | .jmpLong _ | .jmpAbsInd _ | .jsrAbs _ | .rts | .rti => true
  | .bpl _ | .bmi _ | .bvc _ | .bvs _ | .bra _ | .bcc _ | .bcs _ | .bne _ | .beq _ => true
  | _ => false

/-- Is the instruction a guest instruction, not an IR op? -/
def isGuest (i : Instr) : Bool :=
  match encode launchCtx i with
  | .guest _ => true
  | .node _ => false

/-! ### Closed forms of the addressing rules -/

/-- PC and CYCLE advanced, everything else kept. -/
def Regs.passed (bytes cycles : Nat) (r : Regs) : Regs :=
  { r with pc := r.pc + BitVec.ofNat 16 bytes, cycle := r.cycle + BitVec.ofNat 64 cycles }

/-- Every 24-bit address is in range, as with the default P_MEM_BYTES (R504). -/
def State.fullMemory (s : State) : Prop := 16777216 ≤ s.cfg.memBytes

/-- The byte of a memory at a guest address. -/
def byteAt (mem : Memory) (a : Addr) : Byte := Memory.read mem a.toNat

/-- The 16-bit pointer at offset `p` of bank 0, its increment wrapping in the page under E (R250, R254). -/
def ptr16At (mem : Memory) (e : Bool) (p : Word16) : Word16 :=
  cat16 (byteAt mem (mkAddr 0x00#8 (wrapAdd p 1#16 e))) (byteAt mem (mkAddr 0x00#8 p))

/-- The 24-bit pointer at offset `p` of bank 0 (R251). -/
def ptr24At (mem : Memory) (e : Bool) (p : Word16) : Addr :=
  mkAddr (byteAt mem (mkAddr 0x00#8 (wrapAdd p 2#16 e))) (ptr16At mem e p)

/-- The effective address of a mode (R244 to R255). -/
def eaOf (mem : Memory) (r : Regs) : Mode → Ea
  | .dir d => { addr := mkAddr 0x00#8 (r.d + zext16 d), bank0 := true }
  | .dirX d => { addr := mkAddr 0x00#8 (wrapAdd (r.d + zext16 d) (loadIdx .x r) r.e), bank0 := true }
  | .dirY d => { addr := mkAddr 0x00#8 (wrapAdd (r.d + zext16 d) (loadIdx .y r) r.e), bank0 := true }
  | .ind d => { addr := mkAddr r.dbr (ptr16At mem r.e (r.d + zext16 d)), bank0 := false }
  | .indLong d => { addr := ptr24At mem r.e (r.d + zext16 d), bank0 := false }
  | .indX d =>
    { addr := mkAddr r.dbr (ptr16At mem r.e (wrapAdd (r.d + zext16 d) (loadIdx .x r) r.e)), bank0 := false }
  | .indY d =>
    { addr := mkAddr r.dbr (ptr16At mem r.e (r.d + zext16 d)) + zext24 (loadIdx .y r), bank0 := false }
  | .sr off => { addr := mkAddr 0x00#8 (r.s + off), bank0 := true }
  | .abs a => { addr := mkAddr r.dbr a, bank0 := false }
  | .absX a => { addr := mkAddr r.dbr a + zext24 (loadIdx .x r), bank0 := false }
  | .absY a => { addr := mkAddr r.dbr a + zext24 (loadIdx .y r), bank0 := false }
  | .long a => { addr := a, bank0 := false }
  | .longX a => { addr := a + zext24 (loadIdx .x r), bank0 := false }

/-- The direct-page penalty `w` as a cycle count (R243). -/
def dpCycles (r : Regs) : Nat := bit (dpPenalty r)

/-- The cycle an indexed mode adds: 1 for stores, `p` for reads (R242, R246, R253). -/
def indexCycles (isStore : Bool) (r : Regs) (base idx : Word16) : Nat := bit (isStore || readPenalty r base idx)

/-- The cycles a mode adds between the operand fetches and the data access (R260). -/
def eaCycles (isStore : Bool) (mem : Memory) (r : Regs) : Mode → Nat
  | .dir _ => dpCycles r
  | .dirX _ | .dirY _ => dpCycles r + 1
  | .ind _ => dpCycles r + 2
  | .indLong _ => dpCycles r + 3
  | .indX _ => dpCycles r + 3
  | .indY d => dpCycles r + 2 + indexCycles isStore r (ptr16At mem r.e (r.d + zext16 d)) (loadIdx .y r)
  | .sr _ => 1
  | .abs _ | .long _ | .longX _ => 0
  | .absX a => indexCycles isStore r a (loadIdx .x r)
  | .absY a => indexCycles isStore r a (loadIdx .y r)

/-- Bytes in a datum of a width. -/
def Width.bytes : Width → Nat
  | .w8 => 1
  | .w16 => 2

/-- The operand at an effective address: one byte, or two with the high byte at `ea_hi` (R295). -/
def operandAt (mem : Memory) (ea : Ea) (w : Width) : Word16 :=
  match w with
  | .w8 => zext16 (byteAt mem ea.addr)
  | .w16 => cat16 (byteAt mem ea.hi) (byteAt mem ea.addr)

/-- The memory after a store of the low bytes of `v` (R296). -/
def storedAt (mem : Memory) (ea : Ea) (w : Width) (v : Word16) : Memory :=
  match w with
  | .w8 => Memory.write mem ea.addr.toNat (lo8 v)
  | .w16 => Memory.write (Memory.write mem ea.addr.toNat (lo8 v)) ea.hi.toNat (hi8 v)

/-- The byte at offset `s` of bank 0 (R80). -/
def stackByte (mem : Memory) (s : Word16) : Byte := byteAt mem (mkAddr 0x00#8 s)

/-- Appending a value to the value array: what a completed IR node does (R160). -/
def State.push (s : State) (v : IrVal) : State := { s with vals := s.vals ++ [v] }

/-- The handle names a Const node whose value is `n` (R126). -/
def State.constIs (s : State) (h : Handle) (n : Nat) : Prop :=
  ∃ numBits isSigned value wid, nodeAt s h = some (.irConst numBits isSigned value) ∧
    s.vals[h.toNat]? = some { val := BitVec.ofNat 64 n, wid := wid } ∧ n < 2 ^ 64

/-- The handle names an evaluated MemState node with this bus and predicate (R179). -/
def State.memStateIs (s : State) (h : Handle) (bus : Nat) (alive : Bool) : Prop :=
  ∃ b c l own bv lv, nodeAt s h = some (.irMemState b c l) ∧ s.vals[h.toNat]? = some own ∧
    s.vals[b.toNat]? = some bv ∧ bv.val.toNat = bus ∧ s.vals[l.toNat]? = some lv ∧ (lv.val != 0#64) = alive

end Sys2Proof.Machine
end

