-- ==== Sys2Proof/Machine/Rules.lean ====
section
/-! DEFINITION. The rules' results in the terms the statements use: arithmetic on natural numbers and integers instead of bit
vectors (43_helpers.md R270 to R291), the bytes a push writes and a pull reads, the instruction lists of the flag and
register tables (10_state.md R39 to R44), the little-endian views of a wide access (40_ir.md R187). No meaning calls them:
each is a second reading of a rule, beside the one the machine runs. -/

namespace Sys2Proof.Machine

/-! ### Widths and numbers -/

/-- The number of bits of a width. -/
def Width.bits : Width → Nat
  | .w8 => 8
  | .w16 => 16

/-- The low `w` bits of a value, as a number. -/
def Width.num (w : Width) (v : Word16) : Nat := v.toNat % 2 ^ w.bits

/-- A number below 2^w read as two's complement. -/
def Width.signed (w : Width) (n : Nat) : Int := if n < 2 ^ (w.bits - 1) then (n : Int) else (n : Int) - 2 ^ w.bits

/-! ### Register results -/

/-- `setNZ` of a result taken modulo 2^w: N is its top bit, Z tells that it is zero (R271). -/
def resultNZ (w : Width) (n : Nat) (r : Regs) : Regs :=
  { r with n := decide (2 ^ (w.bits - 1) ≤ n % 2 ^ w.bits), z := decide (n % 2 ^ w.bits = 0) }

/-- The accumulator takes the result: A always, B at 16 bits only (R284). -/
def resultA (w : Width) (n : Nat) (r : Regs) : Regs :=
  { r with
    a := BitVec.ofNat 8 n
    b := match w with
      | .w8 => r.b
      | .w16 => BitVec.ofNat 8 (n / 256) }

/-- An index register takes the result, its high byte kept at 8 bits (R286). -/
def resultIdx (i : Idx) (w : Width) (n : Nat) (r : Regs) : Regs :=
  let kept (old : Word16) : Word16 :=
    match w with
    | .w8 => BitVec.ofNat 16 (old.toNat / 256 * 256 + n % 256)
    | .w16 => BitVec.ofNat 16 n
  match i with
  | .x => { r with x := kept r.x }
  | .y => { r with y := kept r.y }

/-- Add with carry at a width: C is the carry out, V tells that the signed sum does not fit (R273, R275, R48). -/
def addEffect (w : Width) (x y : Nat) (r : Regs) : Regs :=
  let sum := x + y + bit r.c
  let signedSum : Int := w.signed x + w.signed y + (bit r.c : Int)
  resultNZ w sum (resultA w sum
    { r with
      c := decide (2 ^ w.bits ≤ sum)
      v := decide (signedSum < -(2 ^ (w.bits - 1) : Int) ∨ (2 ^ (w.bits - 1) : Int) ≤ signedSum) })

/-- Compare at a width: C tells `x ≥ y`, N and Z are those of the difference (R276, R277). -/
def compareEffect (w : Width) (x y : Nat) (r : Regs) : Regs :=
  resultNZ w (x + 2 ^ w.bits - y) { r with c := decide (y ≤ x) }

/-- What an instruction of the accumulator family does to the registers with operand `v` (R311 to R317). -/
def AluOp.effect (op : AluOp) (v : Word16) (r : Regs) : Regs :=
  let w := widthA r
  let x := w.num (loadA r)
  let y := w.num v
  match op with
  | .ora => resultNZ w (x ||| y) (resultA w (x ||| y) r)
  | .and => resultNZ w (x &&& y) (resultA w (x &&& y) r)
  | .eor => resultNZ w (x ^^^ y) (resultA w (x ^^^ y) r)
  | .adc => addEffect w x y r
  | .sbc => addEffect w x (2 ^ w.bits - 1 - y) r
  | .cmp => compareEffect w x y r
  | .lda => resultNZ w y (resultA w y r)

/-- BIT on memory: Z from the AND, N and V the top two bits of the operand (R347). -/
def bitEffect (v : Word16) (r : Regs) : Regs :=
  let w := widthA r
  { r with
    z := decide (w.num (loadA r) &&& w.num v = 0)
    n := decide (2 ^ (w.bits - 1) ≤ w.num v)
    v := decide (2 ^ (w.bits - 2) ≤ w.num v % 2 ^ (w.bits - 1)) }

/-- Result and C of a read-modify-write operation on a `w`-bit number (R278, R279). -/
def RmwOp.number (op : RmwOp) (w v : Nat) (c : Bool) : Nat × Bool :=
  match op with
  | .asl => (v * 2 % 2 ^ w, decide (2 ^ (w - 1) ≤ v))
  | .rol => ((v * 2 + bit c) % 2 ^ w, decide (2 ^ (w - 1) ≤ v))
  | .lsr => (v / 2, decide (v % 2 = 1))
  | .ror => (v / 2 + bit c * 2 ^ (w - 1), decide (v % 2 = 1))
  | .inc => ((v + 1) % 2 ^ w, c)
  | .dec => ((v + 2 ^ w - 1) % 2 ^ w, c)

/-- The memory after a read-modify-write: the high byte is written first (R294, R340). -/
def writtenBack (mem : Memory) (ea : Ea) (w : Width) (v : Word16) : Memory :=
  match w with
  | .w8 => Memory.write mem ea.addr.toNat (lo8 v)
  | .w16 => Memory.write (Memory.write mem ea.hi.toNat (hi8 v)) ea.addr.toNat (lo8 v)

/-! ### The stack (R288 to R291) -/

/-- S after `k` pushes of a byte. -/
def pushedS (e : Bool) (sp : Word16) : Nat → Word16
  | 0 => sp
  | k + 1 => pushedS e (stackLock e (sp - 1#16)) k

/-- S after `k` pulls of a byte. -/
def pulledS (e : Bool) (sp : Word16) : Nat → Word16
  | 0 => sp
  | k + 1 => pulledS e (stackLock e (sp + 1#16)) k

/-- Memory after pushing bytes in order, the first at S (R289). -/
def pushedMem (mem : Memory) (e : Bool) (sp : Word16) : List Byte → Memory
  | [] => mem
  | b :: rest => pushedMem (Memory.write mem (mkAddr 0x00#8 sp).toNat b) e (stackLock e (sp - 1#16)) rest

/-- The addresses that pushing `k` bytes writes (R289). -/
def pushedAddrs (e : Bool) (sp : Word16) : Nat → List Addr
  | 0 => []
  | k + 1 => mkAddr 0x00#8 sp :: pushedAddrs e (stackLock e (sp - 1#16)) k

/-- The byte the `k`-th pull reads, counted from 1 (R290). -/
def pulledByte (mem : Memory) (e : Bool) (sp : Word16) (k : Nat) : Byte := stackByte mem (pulledS e sp k)

/-- The bytes of a value as a push orders them: high byte first when 16-bit (R291). -/
def pushOrder (w : Width) (v : Word16) : List Byte :=
  match w with
  | .w8 => [lo8 v]
  | .w16 => [hi8 v, lo8 v]

/-- The value a pull of a width assembles: low byte first, high byte 0 when 8-bit (R291, R444). -/
def pulledValue (mem : Memory) (e : Bool) (sp : Word16) (w : Width) : Word16 :=
  match w with
  | .w8 => zext16 (pulledByte mem e sp 1)
  | .w16 => cat16 (pulledByte mem e sp 2) (pulledByte mem e sp 1)

/-- Every push instruction: the width and the value it pushes (R441, R443, R445, R447, R449, R451, R452). -/
def pushForms : List (Instr × (Regs → Width) × (Regs → Word16)) :=
  [(.pha, widthA, fun r => cat16 r.b r.a), (.phx, widthX, fun r => r.x), (.phy, widthX, fun r => r.y),
   (.php, fun _ => .w8, fun r => zext16 (packFlags r)), (.phd, fun _ => .w16, fun r => r.d),
   (.phk, fun _ => .w8, fun r => zext16 r.pbr), (.phb, fun _ => .w8, fun r => zext16 r.dbr)]

/-- Every pull instruction: its width and what it does with the value pulled (R442, R444, R446, R448, R450, R453). -/
def pullForms : List (Instr × (Regs → Width) × (Word16 → Regs → Regs)) :=
  [(.pla, widthA, fun v r => resultNZ (widthA r) v.toNat (resultA (widthA r) v.toNat r)),
   (.plx, widthX, fun v r => resultNZ (widthX r) v.toNat (resultIdx .x (widthX r) v.toNat r)),
   (.ply, widthX, fun v r => resultNZ (widthX r) v.toNat (resultIdx .y (widthX r) v.toNat r)),
   (.plp, fun _ => .w8, fun v r => unpackFlags (lo8 v) r),
   (.pld, fun _ => .w16, fun v r => resultNZ .w16 v.toNat { r with d := v }),
   (.plb, fun _ => .w8, fun v r => resultNZ .w8 v.toNat { r with dbr := lo8 v })]

/-! ### Accesses in bus order, for the accesses out of range (R504, R505) -/

/-- The pointer bytes a mode reads: the cycles between the operand fetches and the read, and the address (R250 to R253). -/
def ptrTrail (r : Regs) : Mode → List (Nat × Addr)
  | .ind d | .indY d =>
    let p := r.d + zext16 d
    [(dpCycles r, mkAddr 0x00#8 p), (dpCycles r + 1, mkAddr 0x00#8 (wrapAdd p 1#16 r.e))]
  | .indLong d =>
    let p := r.d + zext16 d
    [(dpCycles r, mkAddr 0x00#8 p), (dpCycles r + 1, mkAddr 0x00#8 (wrapAdd p 1#16 r.e)),
     (dpCycles r + 2, mkAddr 0x00#8 (wrapAdd p 2#16 r.e))]
  | .indX d =>
    let p := wrapAdd (r.d + zext16 d) (loadIdx .x r) r.e
    [(dpCycles r + 1, mkAddr 0x00#8 p), (dpCycles r + 2, mkAddr 0x00#8 (wrapAdd p 1#16 r.e))]
  | .dir _ | .dirX _ | .dirY _ | .sr _ | .abs _ | .absX _ | .absY _ | .long _ | .longX _ => []

/-- The bytes of a datum at an effective address, the first after `k` cycles (R295). -/
def dataTrail (ea : Ea) (w : Width) (k : Nat) : List (Nat × Addr) :=
  match w with
  | .w8 => [(k, ea.addr)]
  | .w16 => [(k, ea.addr), (k + 1, ea.hi)]

/-- The reads of a memory form: its pointer bytes, then its operand. -/
def readTrail (isStore : Bool) (mem : Memory) (r : Regs) (m : Mode) (w : Width) : List (Nat × Addr) :=
  ptrTrail r m ++ dataTrail (eaOf mem r m) w (eaCycles isStore mem r m)

/-- The first access of a trail at or above P_MEM_BYTES, if there is one. -/
def State.firstOut (s : State) (trail : List (Nat × Addr)) : Option (Nat × Addr) :=
  trail.find? (fun p => decide (s.cfg.memBytes ≤ p.2.toNat))

/-- The IR argument slots of a node that its op does not use; none in the constant shapes (R121 to R124). -/
def unusedSlots (w : Node) (i : Instr) : List Handle :=
  match (irHandles i).length with
  | 1 => [Node.arg1 w, Node.arg2 w]
  | 2 => [Node.arg2 w]
  | _ => []

/-! ### Branches (R481 to R489) -/

/-- Every branch with its opcode byte and its condition. -/
def branchForms : List ((Byte → Instr) × Byte × (Regs → Bool)) :=
  [(.bpl, 0x10#8, fun r => !r.n), (.bmi, 0x30#8, fun r => r.n), (.bvc, 0x50#8, fun r => !r.v),
   (.bvs, 0x70#8, fun r => r.v), (.bra, 0x80#8, fun _ => true), (.bcc, 0x90#8, fun r => !r.c),
   (.bcs, 0xB0#8, fun r => r.c), (.bne, 0xD0#8, fun r => !r.z), (.beq, 0xF0#8, fun r => r.z)]

/-- Where a taken branch goes: the displacement as a signed number added to the next instruction's offset (R105, R480). -/
def branchTarget (next : Word16) (d : Byte) : Word16 := BitVec.ofInt 16 ((next.toNat : Int) + d.toInt)

/-- A branch's effect on the registers after its two bytes (R480). -/
def branchEffect (taken : Bool) (d : Byte) (r : Regs) : Regs :=
  let next := r.pc + 2#16
  let target := branchTarget next d
  let crossed := target.toNat / 256 != next.toNat / 256
  if taken then { r with pc := target, cycle := r.cycle + BitVec.ofNat 64 (3 + bit (r.e && crossed)) }
  else { r with pc := next, cycle := r.cycle + 2#64 }

/-! ### Instruction bytes in memory (R42, R100) -/

/-- `n` bytes from offset `pc` of a bank, wrapping inside the bank. -/
def codeAt (mem : Memory) (pbr : Byte) (pc : Word16) : Nat → List Byte
  | 0 => []
  | n + 1 => byteAt mem (mkAddr pbr pc) :: codeAt mem pbr (pc + 1#16) n

/-- The length in bytes of a guest instruction (0 for an IR op). -/
def guestLength (c : Ctx) (i : Instr) : Nat :=
  match encode c i with
  | .guest bytes => bytes.length
  | .node _ => 0

/-! ### Who writes what (R39 to R41, R44) -/

/-- Stores, read-modify-writes on memory, pushes and JSR: the instructions that write memory. -/
def writesMemory : Instr → Bool
  | .staDir _ | .staDirX _ | .staInd _ | .staIndLong _ | .staIndX _ | .staIndY _ | .staSr _ | .staAbs _ | .staAbsX _
  | .staAbsY _ | .staLong _ | .staLongX _ => true
  | .stxDir _ | .stxDirY _ | .stxAbs _ | .styDir _ | .styDirX _ | .styAbs _ => true
  | .stzDir _ | .stzDirX _ | .stzAbs _ | .stzAbsX _ => true
  | .aslDir _ | .aslDirX _ | .aslAbs _ | .aslAbsX _ | .rolDir _ | .rolDirX _ | .rolAbs _ | .rolAbsX _ => true
  | .lsrDir _ | .lsrDirX _ | .lsrAbs _ | .lsrAbsX _ | .rorDir _ | .rorDirX _ | .rorAbs _ | .rorAbsX _ => true
  | .incDir _ | .incDirX _ | .incAbs _ | .incAbsX _ | .decDir _ | .decDirX _ | .decAbs _ | .decAbsX _ => true
  | .pha | .phx | .phy | .php | .phd | .phk | .phb | .jsrAbs _ => true
  | _ => false

/-- PLP and RTI: the instructions that write all of P. -/
def unpacksP : Instr → Bool
  | .plp | .rti => true
  | _ => false

/-- ADC and SBC in every form. -/
def addsOrSubtracts : Instr → Bool
  | .adcImm _ | .adcDir _ | .adcDirX _ | .adcInd _ | .adcIndLong _ | .adcIndX _ | .adcIndY _ | .adcSr _ | .adcAbs _
  | .adcAbsX _ | .adcAbsY _ | .adcLong _ | .adcLongX _ => true
  | .sbcImm _ | .sbcDir _ | .sbcDirX _ | .sbcInd _ | .sbcIndLong _ | .sbcIndX _ | .sbcIndY _ | .sbcSr _ | .sbcAbs _
  | .sbcAbsX _ | .sbcAbsY _ | .sbcLong _ | .sbcLongX _ => true
  | _ => false

/-- CMP, CPX and CPY in every form. -/
def compares : Instr → Bool
  | .cmpImm _ | .cmpDir _ | .cmpDirX _ | .cmpInd _ | .cmpIndLong _ | .cmpIndX _ | .cmpIndY _ | .cmpSr _ | .cmpAbs _
  | .cmpAbsX _ | .cmpAbsY _ | .cmpLong _ | .cmpLongX _ => true
  | .cpxImm _ | .cpxDir _ | .cpxAbs _ | .cpyImm _ | .cpyDir _ | .cpyAbs _ => true
  | _ => false

/-- The shifts and rotates in every form. -/
def shifts : Instr → Bool
  | .aslAcc | .aslDir _ | .aslDirX _ | .aslAbs _ | .aslAbsX _ | .rolAcc | .rolDir _ | .rolDirX _ | .rolAbs _ | .rolAbsX _ => true
  | .lsrAcc | .lsrDir _ | .lsrDirX _ | .lsrAbs _ | .lsrAbsX _ | .rorAcc | .rorDir _ | .rorDirX _ | .rorAbs _ | .rorAbsX _ => true
  | _ => false

/-- BIT on memory. -/
def bitsMemory : Instr → Bool
  | .bitDir _ | .bitDirX _ | .bitAbs _ | .bitAbsX _ => true
  | _ => false

/-- The writers of C (R44). -/
def writesC (i : Instr) : Bool :=
  addsOrSubtracts i || compares i || shifts i || unpacksP i || i == .clc || i == .sec || i == .xce

/-- The writers of V (R44). -/
def writesV (i : Instr) : Bool := addsOrSubtracts i || bitsMemory i || unpacksP i || i == .clv

/-- The instructions that leave N alone: those R44's row for N does not name. -/
def keepsN : Instr → Bool
  | .staDir _ | .staDirX _ | .staInd _ | .staIndLong _ | .staIndX _ | .staIndY _ | .staSr _ | .staAbs _ | .staAbsX _
  | .staAbsY _ | .staLong _ | .staLongX _ => true
  | .stxDir _ | .stxDirY _ | .stxAbs _ | .styDir _ | .styDirX _ | .styAbs _ => true
  | .stzDir _ | .stzDirX _ | .stzAbs _ | .stzAbsX _ => true
  | .pha | .phx | .phy | .php | .phd | .phk | .phb => true
  | .txs | .tcs | .xce | .clc | .sec | .cli | .sei | .clv | .cld | .sed | .nop | .bitImm _ => true
  | .jmpAbs _ | .jmpLong _ | .jmpAbsInd _ | .jsrAbs _ | .rts => true
  | .bpl _ | .bmi _ | .bvc _ | .bvs _ | .bra _ | .bcc _ | .bcs _ | .bne _ | .beq _ => true
  | _ => false

/-- The instructions that leave Z alone: as N, but BIT # writes it (R44). -/
def keepsZ : Instr → Bool
  | .bitImm _ => false
  | i => keepsN i

/-- The instructions that write A or B (R36). -/
def writesAccumulator : Instr → Bool
  | .oraImm _ | .oraDir _ | .oraDirX _ | .oraInd _ | .oraIndLong _ | .oraIndX _ | .oraIndY _ | .oraSr _ | .oraAbs _
  | .oraAbsX _ | .oraAbsY _ | .oraLong _ | .oraLongX _ => true
  | .andImm _ | .andDir _ | .andDirX _ | .andInd _ | .andIndLong _ | .andIndX _ | .andIndY _ | .andSr _ | .andAbs _
  | .andAbsX _ | .andAbsY _ | .andLong _ | .andLongX _ => true
  | .eorImm _ | .eorDir _ | .eorDirX _ | .eorInd _ | .eorIndLong _ | .eorIndX _ | .eorIndY _ | .eorSr _ | .eorAbs _
  | .eorAbsX _ | .eorAbsY _ | .eorLong _ | .eorLongX _ => true
  | .ldaImm _ | .ldaDir _ | .ldaDirX _ | .ldaInd _ | .ldaIndLong _ | .ldaIndX _ | .ldaIndY _ | .ldaSr _ | .ldaAbs _
  | .ldaAbsX _ | .ldaAbsY _ | .ldaLong _ | .ldaLongX _ => true
  | .aslAcc | .rolAcc | .lsrAcc | .rorAcc | .incAcc | .decAcc | .txa | .tya | .tsc | .tdc | .xba | .pla => true
  | i => addsOrSubtracts i

/-- The instructions that write S: TXS, TCS, every push and pull, JSR, RTS, RTI, XCE (R38). -/
def writesStack : Instr → Bool
  | .txs | .tcs | .xce | .jsrAbs _ | .rts | .rti => true
  | .pha | .phx | .phy | .php | .phd | .phk | .phb | .pla | .plx | .ply | .plp | .pld | .plb => true
  | _ => false

/-! ### Wide accesses of the IR (R187) -/

/-- The little-endian number of `n` bytes of guest memory from `a`, addresses modulo 2^24. -/
def littleEndian (mem : Memory) (a : Addr) : Nat → Nat
  | 0 => 0
  | n + 1 => littleEndian mem a n + 256 ^ n * (byteAt mem (a + BitVec.ofNat 24 n)).toNat

/-- Guest memory after storing the low `n` bytes of `v` from `a` upwards. -/
def storedLittle (mem : Memory) (a : Addr) (v : Nat) : Nat → Memory
  | 0 => mem
  | n + 1 =>
    Memory.write (storedLittle mem a v n) (a + BitVec.ofNat 24 n).toNat (BitVec.ofNat 8 (v / 256 ^ n))

/-- The little-endian number of `n` bytes of the state namespace from `a` (R181). -/
def auxLittle (mem : Memory) (a : Nat) : Nat → Nat
  | 0 => 0
  | n + 1 => auxLittle mem a n + 256 ^ n * (Memory.read mem (a + n)).toNat

/-- The state namespace after writing the low `n` bytes of `v` from `a` upwards (R182). -/
def auxStored (mem : Memory) (a v : Nat) : Nat → Memory
  | 0 => mem
  | n + 1 => Memory.write (auxStored mem a v n) (a + n) (BitVec.ofNat 8 (v / 256 ^ n))

/-- `LoadN` by its number of bytes (R180). -/
def loadForm : List (Nat × (Handle → Handle → Instr)) :=
  [(1, .irLoad8), (2, .irLoad16), (4, .irLoad32), (8, .irLoad64)]

/-- `StoreN` by its number of bytes (R183). -/
def storeForm : List (Nat × (Handle → Handle → Handle → Instr)) :=
  [(1, .irStore8), (2, .irStore16), (4, .irStore32), (8, .irStore64)]

/-- The IR ops whose effect reaches the register file or guest memory: the stores. -/
def irStores : Instr → Bool
  | .irStore8 _ _ _ | .irStore16 _ _ _ | .irStore32 _ _ _ | .irStore64 _ _ _ => true
  | _ => false

end Sys2Proof.Machine
end

