-- ==== Sys2Proof/Machine/Boot.lean ====
section
/-! DEFINITION. ROM ingestion as the test drivers do it, over the P_INIT_MEM they start from (70_reset_and_hazards.md R563). No
step reads it. -/

namespace Sys2Proof.Machine

/-- Writing bytes at ascending addresses. -/
def writeFrom : Nat → List Byte → Memory → Memory
  | _, [], m => m
  | a, b :: rest, m => writeFrom (a + 1) rest (Memory.write m a b)

/-- The header's 16 bytes are skipped; the next 16384 go to 0x00C000 and, as a copy, to 0x008000; a shorter file is refused;
every other byte is that of P_INIT_MEM, `[]` for its default of all 0 (R563, D42). -/
def ingestRom (initMem : Memory) (file : List Byte) : Option Memory :=
  if file.length < 16 + 16384 then none
  else
    let rom := (file.drop 16).take 16384
    some (writeFrom 0x00C000 rom (writeFrom 0x008000 rom initMem))

end Sys2Proof.Machine
end

