-- ==== Sys2Proof/Machine/Emitter.lean ====
section
/-! DEFINITION. The Emitter (41_emitter_driver.md R200 to R219): appending nodes to the arena, constant sharing, the
register-state map, the memory context, `If` scopes, the zero-chain, the prologue and Finalize. The node sequence
of the prologue and of Finalize is the model's own where the spec leaves it open (R185, log 11). -/

namespace Sys2Proof.Machine

/-- The 19 slots of R30, in ordinal order. -/
inductive Slot where
  | a | b | d | x | y | s | pc | pbr | dbr | n | v | m | xf | df | i | z | c | e | cycle
  deriving DecidableEq, Repr

/-- The ordinal of a slot (R30). -/
def Slot.ord : Slot → Fin 19
  | .a => 0 | .b => 1 | .d => 2 | .x => 3 | .y => 4 | .s => 5 | .pc => 6 | .pbr => 7 | .dbr => 8
  | .n => 9 | .v => 10 | .m => 11 | .xf => 12 | .df => 13 | .i => 14 | .z => 15 | .c => 16
  | .e => 17 | .cycle => 18

/-- The width of a slot in bits (R30). -/
def Slot.width : Slot → Nat
  | .a | .b | .pbr | .dbr => 8
  | .d | .x | .y | .s | .pc => 16
  | .n | .v | .m | .xf | .df | .i | .z | .c | .e => 1
  | .cycle => 64

/-- Every slot, in ordinal order. -/
def Slot.all : List Slot :=
  [.a, .b, .d, .x, .y, .s, .pc, .pbr, .dbr, .n, .v, .m, .xf, .df, .i, .z, .c, .e, .cycle]

/-- A block under construction: the arena, the Emitter and `ending`, with the parameters construction reads. -/
structure Build where
  cfg : Config
  arena : List Node
  em : Emitter
  ending : Bool
  deriving DecidableEq, Repr

/-- A construction: it appends nodes, or fails structurally (R503). -/
abbrev Emit := EStateM IrReason Build

/-- A handle with the width its node has (R143, R145). -/
structure V where
  h : Handle
  w : Nat
  deriving DecidableEq, Repr

/-- An Emitter that holds nothing yet; the prologue fills it. -/
def Emitter.empty (startPc : Word16) (startPbr : Byte) : Emitter :=
  { regMap := Vector.replicate 19 sentinel, prologue := Vector.replicate 19 sentinel, pred := sentinel
    zeroChain := none, memo := [], endMarker := 0, startPc := startPc, startPbr := startPbr }

/-! ### Appending nodes (R140 to R142, R12) -/

/-- Appending a node: no node past the capacity, no argument at or beyond the node (R12, R142). It
answers the new node's handle (R141). -/
def append (i : Instr) : Emit Handle := fun b =>
  let len := b.arena.length
  if b.cfg.arenaCap ≤ len || 65535 ≤ len then .error .arenaFull b
  else if (irHandles i).all (fun h => decide (h.toNat < len)) then
    match encode launchCtx i with
    | .node w => .ok (BitVec.ofNat 16 len) { b with arena := b.arena ++ [w] }
    | .guest _ => .error .unusedTag b
  else .error .badHandle b

/-- A change of the Emitter. -/
def modEm (f : Emitter → Emitter) : Emit Unit := modify (fun b => { b with em := f b.em })

/-- Looking a constant up in the memo table (R203). -/
def memoFind (key : Nat × Nat) : List ((Nat × Nat) × Handle) → Option Handle
  | [] => none
  | (k, h) :: rest => if k = key then some h else memoFind key rest

/-- `Const(value, width)` with memoization: asked twice, one node (R203, P2). DESIGN CHOICE (log 26): the number is a natural one,
`is_signed` is 0, the node's 32-bit field holds it modulo 2^32 (R121) and the memo key holds it whole. -/
def constV (w value : Nat) : Emit V := do
  let b ← get
  match memoFind (value, w) b.em.memo with
  | some h => pure { h := h, w := w }
  | none => do
    let h ← append (.irConst (BitVec.ofNat 8 w) 0#8 (BitVec.ofNat 32 value))
    modEm (fun em => { em with memo := em.memo ++ [((value, w), h)] })
    pure { h := h, w := w }

/-! ### Op wrappers (R202), one an IR op -/

/-- An operand of a wrapper: an SSA handle, or an integer to be boxed (R202). -/
inductive Opd where
  | ssa (v : V)
  | imm (n : Nat)
  deriving DecidableEq, Repr

/-- The width of the first handle among the operands. -/
def firstWidth : List Opd → Option Nat
  | [] => none
  | .ssa v :: _ => some v.w
  | .imm _ :: rest => firstWidth rest

/-- Boxing an integer operand as a Const of the given width (R202, D22). A width no Const can have, or no handle operand to
take a width from, is a structural error (R163, R190; log 25). Which numbers there are, and how one above 32 bits is held, is
that of `constV` (log 26). -/
def boxOpd (width : Option Nat) : Opd → Emit V
  | .ssa v => pure v
  | .imm n =>
    match width with
    | some w => if constWidthOk (BitVec.ofNat 8 w) && decide (w ≤ 64) then constV w n else throw .badWidth
    | none => throw .badWidth

/-- A wrapper of one operand; `width` is the typing rule of its op (R145). -/
def wrap1 (mk : Handle → Instr) (width : V → Emit Nat) (a : Opd) : Emit V := do
  let x ← boxOpd (firstWidth [a]) a
  let w ← width x
  let h ← append (mk x.h)
  pure { h := h, w := w }

/-- A wrapper of two operands. -/
def wrap2 (mk : Handle → Handle → Instr) (width : V → V → Emit Nat) (a b : Opd) : Emit V := do
  let like := firstWidth [a, b]
  let x ← boxOpd like a
  let y ← boxOpd like b
  let w ← width x y
  let h ← append (mk x.h y.h)
  pure { h := h, w := w }

/-- A wrapper of three operands. -/
def wrap3 (mk : Handle → Handle → Handle → Instr) (width : V → V → V → Emit Nat) (a b c : Opd) : Emit V := do
  let like := firstWidth [a, b, c]
  let x ← boxOpd like a
  let y ← boxOpd like b
  let z ← boxOpd like c
  let w ← width x y z
  let h ← append (mk x.h y.h z.h)
  pure { h := h, w := w }

/-- The value of an operand that must be a Const node (R126, R163). -/
def constOf (x : V) : Emit Nat := do
  let b ← get
  match b.arena[x.h.toNat]? with
  | some w =>
    match decodeNode w with
    | .ok (.irConst numBits isSigned value) => pure (constNumber numBits isSigned value)
    | _ => throw .notConst
  | none => throw .badHandle

/-- `Const48(imm48)`; the lifter never asks for it (R164). -/
def const48W (imm48 : BitVec 48) : Emit Handle := append (.irConst48 imm48)

/-- `Not(a)` (R165). -/
def notW : Opd → Emit V := wrap1 .irNot (fun x => pure x.w)

/-- `Add(a, b)` (R166). -/
def addW : Opd → Opd → Emit V := wrap2 .irAdd (fun x _ => pure x.w)

/-- `Sub(a, b)` (R167). -/
def subW : Opd → Opd → Emit V := wrap2 .irSub (fun x _ => pure x.w)

/-- `And(a, b)` (R168). -/
def andW : Opd → Opd → Emit V := wrap2 .irAnd (fun x _ => pure x.w)

/-- `Or(a, b)` (R169). -/
def orW : Opd → Opd → Emit V := wrap2 .irOr (fun x _ => pure x.w)

/-- `Xor(a, b)` (R170). -/
def xorW : Opd → Opd → Emit V := wrap2 .irXor (fun x _ => pure x.w)

/-- `ShiftLeft(a, k)` (R171). -/
def shiftLeftW : Opd → Opd → Emit V :=
  wrap2 .irShiftLeft (fun x k => do
    let n ← constOf k
    pure (x.w + n))

/-- `ShiftRight(a, k)` (R172). -/
def shiftRightW : Opd → Opd → Emit V :=
  wrap2 .irShiftRight (fun x k => do
    let n ← constOf k
    pure (x.w - n))

/-- `Cat(a, b)` (R173). -/
def catW : Opd → Opd → Emit V := wrap2 .irCat (fun x y => pure (x.w + y.w))

/-- `Extract(a, lsb, w)` (R174). -/
def extractW : Opd → Opd → Opd → Emit V := wrap3 .irExtract (fun _ _ k => constOf k)

/-- `Zext(a, n)` (R175). -/
def zextW : Opd → Opd → Emit V := wrap2 .irZext (fun _ k => constOf k)

/-- `Eq(a, b)` (R176). -/
def eqW : Opd → Opd → Emit V := wrap2 .irEq (fun _ _ => pure 1)

/-- `Neq(a, b)` (R177). -/
def neqW : Opd → Opd → Emit V := wrap2 .irNeq (fun _ _ => pure 1)

/-- `Ternary(cond, a, b)` (R178); the lifter selects between operands of one width, which is the one noted here. -/
def ternaryW : Opd → Opd → Opd → Emit V := wrap3 .irTernary (fun _ x _ => pure x.w)

/-- `MemState(bus, cycle, alive)` (R179). -/
def memStateW : Opd → Opd → Opd → Emit V := wrap3 .irMemState (fun _ _ _ => pure 0)

/-- `Load8(ms, addr)` (R180), and the wider loads. -/
def load8W : Opd → Opd → Emit V := wrap2 .irLoad8 (fun _ _ => pure 8)
def load16W : Opd → Opd → Emit V := wrap2 .irLoad16 (fun _ _ => pure 16)
def load32W : Opd → Opd → Emit V := wrap2 .irLoad32 (fun _ _ => pure 32)
def load64W : Opd → Opd → Emit V := wrap2 .irLoad64 (fun _ _ => pure 64)

/-- `Store8(ms, addr, value)` (R183), and the wider stores. -/
def store8W : Opd → Opd → Opd → Emit V := wrap3 .irStore8 (fun _ _ _ => pure 8)
def store16W : Opd → Opd → Opd → Emit V := wrap3 .irStore16 (fun _ _ _ => pure 16)
def store32W : Opd → Opd → Opd → Emit V := wrap3 .irStore32 (fun _ _ _ => pure 32)
def store64W : Opd → Opd → Opd → Emit V := wrap3 .irStore64 (fun _ _ _ => pure 64)

/-- `StateRead(offset, size)` (R181); the lifter never asks for it. -/
def stateReadW : Opd → Opd → Emit V :=
  wrap2 .irStateRead (fun _ k => do
    let n ← constOf k
    pure (8 * n))

/-- `StateWrite(offset, size, value)` (R182); the lifter never asks for it. -/
def stateWriteW : Opd → Opd → Opd → Emit V :=
  wrap3 .irStateWrite (fun _ k _ => do
    let n ← constOf k
    pure (8 * n))

/-- `Assert(value, expected)` (R184). -/
def assertW : Opd → Opd → Emit V := wrap2 .irAssert (fun _ _ => pure 0)

/-! ### The wrappers over handles, as the lifter uses them -/

def notV (x : V) : Emit V := notW (.ssa x)
def addV (x y : V) : Emit V := addW (.ssa x) (.ssa y)
def subV (x y : V) : Emit V := subW (.ssa x) (.ssa y)
def andV (x y : V) : Emit V := andW (.ssa x) (.ssa y)
def orV (x y : V) : Emit V := orW (.ssa x) (.ssa y)
def xorV (x y : V) : Emit V := xorW (.ssa x) (.ssa y)
def neqV (x y : V) : Emit V := neqW (.ssa x) (.ssa y)
def ternaryV (q x y : V) : Emit V := ternaryW (.ssa q) (.ssa x) (.ssa y)

/-- `Cat(hi, lo)`. -/
def catV (hi lo : V) : Emit V := catW (.ssa hi) (.ssa lo)

/-- A shift amount, position or width beside the operand `x`: an integer, boxed at the width of `x` (R202), where a Const of
that width can hold it; else an explicit 8-bit Const (log 11). -/
def numberFor (x : V) (n : Nat) : Emit Opd :=
  if constWidthOk (BitVec.ofNat 8 x.w) && decide (x.w ≤ 64) && decide (n < 2 ^ x.w) then pure (.imm n)
  else do
    let k ← constV 8 n
    pure (.ssa k)

/-- The field of `w` bits from `lsb`. -/
def extractV (x : V) (lsb w : Nat) : Emit V := do
  let l ← numberFor x lsb
  let k ← numberFor x w
  extractW (.ssa x) l k

/-- Widening to `n` bits. -/
def zextV (x : V) (n : Nat) : Emit V := do
  let k ← numberFor x n
  zextW (.ssa x) k

def shlV (x : V) (n : Nat) : Emit V := do
  let k ← numberFor x n
  shiftLeftW (.ssa x) k

def shrV (x : V) (n : Nat) : Emit V := do
  let k ← numberFor x n
  shiftRightW (.ssa x) k

/-! ### The register-state map (R201) -/

def getSlot (sl : Slot) : Emit V := do
  let b ← get
  pure { h := b.em.regMap.get sl.ord, w := sl.width }

def setSlot (sl : Slot) (x : V) : Emit Unit :=
  modEm (fun em => { em with regMap := em.regMap.set sl.ord.val x.h sl.ord.isLt })

/-- `IncPC()` (R207). -/
def incPC : Emit Unit := do
  let pc ← getSlot .pc
  let next ← addW (.ssa pc) (.imm 1)
  setSlot .pc next

/-- `IncCycle()` (R208); it is also `IO()` (R565). -/
def incCycle : Emit Unit := do
  let c ← getSlot .cycle
  let next ← addW (.ssa c) (.imm 1)
  setSlot .cycle next

/-! ### The memory context (R204 to R206) -/

/-- `MemState(bus, cycle, alive)` from a time stamp and the current predicate (R204). -/
def memStateV (bus : Nat) (cyc : V) : Emit V := do
  let b ← get
  memStateW (.imm bus) (.ssa cyc) (.ssa { h := b.em.pred, w := 1 })

/-- `Read(addr)`: MemState, Load8, IncCycle (R204). -/
def readV (addr : V) : Emit V := do
  let cyc ← getSlot .cycle
  let ms ← memStateV 1 cyc
  let v ← load8W (.ssa ms) (.ssa addr)
  incCycle
  pure v

/-- `Write(addr, value)`: MemState, Store8, IncCycle (R205). -/
def writeV (addr value : V) : Emit Unit := do
  let cyc ← getSlot .cycle
  let ms ← memStateV 1 cyc
  let _ ← store8W (.ssa ms) (.ssa addr) (.ssa value)
  incCycle

/-- `ReadPc()`: a read at `Cat(PBR, PC)`, then IncPC (R209). -/
def readPcV : Emit V := do
  let bank ← getSlot .pbr
  let pc ← getSlot .pc
  let addr ← catV bank pc
  let v ← readV addr
  incPC
  pure v

/-! ### `If` scopes (R210, R211, R213, R215) -/

/-- Step 4 of R210: every key whose handle changed becomes a Ternary of the new and the old. -/
def mergeSlots (cond : V) (before : Vector Handle 19) : List Slot → Emit Unit
  | [] => pure ()
  | sl :: rest => do
    let now ← getSlot sl
    let old : V := { h := before.get sl.ord, w := sl.width }
    if now.h = old.h then pure ()
    else do
      let t ← ternaryV cond now old
      setSlot sl t
    mergeSlots cond before rest

/-- `If(cond, body)` (R210). The body's own value leaks unpredicated (R213); the predicate inside is the innermost condition
(R211). -/
def ifV {α : Type} (cond : V) (body : Emit α) : Emit α := do
  let b ← get
  let before := b.em.regMap
  let pred := b.em.pred
  modEm (fun em => { em with pred := cond.h })
  let out ← body
  mergeSlots cond before Slot.all
  modEm (fun em => { em with pred := pred })
  pure out

/-- `ReadPc(flag)`: a second byte only when the flag is 0; the 16-bit value has high byte 0 when it is 1 (R209). -/
def readPcFlagV (flag : V) : Emit V := do
  let lo ← readPcV
  let wide ← notV flag
  let hi ← ifV wide readPcV
  catV hi lo

/-! ### The prologue and Finalize (R216, R217) -/

/-- A slot's ordinal as an address on the register bus: an explicit Const, since an integer beside a MemState would be boxed
at width 0 (R202, R30). -/
def slotAddrV (sl : Slot) : Emit Opd := do
  let k ← constV 8 sl.ord.val
  pure (.ssa k)

/-- The load op of a slot's width on the register bus: a flag is loaded by Load8 and narrowed (R185). -/
def loadSlotV (ms : V) (sl : Slot) : Emit V := do
  let k ← slotAddrV sl
  match sl.width with
  | 1 => do
    let v ← load8W (.ssa ms) k
    extractV v 0 1
  | 8 => load8W (.ssa ms) k
  | 16 => load16W (.ssa ms) k
  | _ => load64W (.ssa ms) k

/-- The prologue's loads, one a slot. -/
def loadSlots (ms : V) : List Slot → Emit Unit
  | [] => pure ()
  | sl :: rest => do
    let v ← loadSlotV ms sl
    setSlot sl v
    loadSlots ms rest

/-- The prologue (R216): the predicate `Const(1, 1)`, the block's start PC and PBR as constants in the IR, a register-bus
MemState, one load a slot, the end marker. DESIGN CHOICE (log 11): the time stamp of that MemState is `Const(0, 64)`, since no
CYCLE entry exists before the loads; and the PC and PBR entries are those of the loads, as R216 says of each register, the
two constants standing beside them. -/
def prologueV : Emit Unit := do
  let one ← constV 1 1
  modEm (fun em => { em with pred := one.h })
  let start ← get
  let _ ← constV 16 start.em.startPc.toNat
  let _ ← constV 8 start.em.startPbr.toNat
  let stamp ← constV 64 0
  let ms ← memStateV 0 stamp
  loadSlots ms Slot.all
  let b ← get
  modEm (fun em => { em with prologue := em.regMap, endMarker := b.arena.length })

/-- The store op of a slot's width on the register bus (R186). -/
def storeSlotV (ms : V) (sl : Slot) : Emit V := do
  let k ← slotAddrV sl
  let v ← getSlot sl
  match sl.width with
  | 1 | 8 => store8W (.ssa ms) k (.ssa v)
  | 16 => store16W (.ssa ms) k (.ssa v)
  | _ => store64W (.ssa ms) k (.ssa v)

/-- The slots whose current handle differs from their prologue handle (R217, D15). -/
def changedSlots (em : Emitter) : List Slot :=
  Slot.all.filter (fun sl => em.regMap.get sl.ord != em.prologue.get sl.ord)

/-- One store for each of the given slots. -/
def storeSlots (ms : V) : List Slot → Emit Unit
  | [] => pure ()
  | sl :: rest => do
    let _ ← storeSlotV ms sl
    storeSlots ms rest

/-- Finalize (R217): one register-bus store for each changed slot, no other. -/
def finalizeV : Emit Unit := do
  let b ← get
  let cyc ← getSlot .cycle
  let ms ← memStateV 0 cyc
  storeSlots ms (changedSlots b.em)

/-! ### emit (R219) -/

/-- The opcode fetch, the Assert of the burnt-in opcode, and the zero-chain cleared, before an opcode's routine (R219). -/
def emitOpcode (opcode : Byte) : Emit Unit := do
  let b ← readPcV
  let _ ← assertW (.ssa b) (.imm opcode.toNat)
  modEm (fun em => { em with zeroChain := none })

/-- `ending <- true` (R214). -/
def endBlockV : Emit Unit := modify (fun b => { b with ending := true })

end Sys2Proof.Machine
end

