-- ==== Sys2Proof/Machine/Lift.lean ====
section
/-! DEFINITION. The lifter: one routine for each of the 218 lifted opcodes, building the IR of its rule (42_addressing.md to
49_control.md) with the Emitter. The node sequences are the model's own (log 11): the spec fixes what they
evaluate to, and the structure it names (low and high halves gated by `If`, the zero-chain, wrap as Ternary). -/

namespace Sys2Proof.Machine

/-! ### Small pieces -/

/-- Bits 7:0 of a 16-bit value. -/
def loV (x : V) : Emit V := extractV x 0 8

/-- Bits 15:8 of a 16-bit value. -/
def hiV (x : V) : Emit V := extractV x 8 8

/-- One bit of a value. -/
def bitV (x : V) (k : Nat) : Emit V := extractV x k 1

/-- Is a value zero? -/
def isZeroV (x : V) : Emit V :=
  eqW (.ssa x) (.imm 0)

/-- `{0x00, off}`. -/
def bank0V (off : V) : Emit V := do
  let z ← constV 8 0
  catV z off

/-- `wrapAdd(base, inc, flag)`, both possibilities represented and selected by a Ternary (R241). -/
def wrapAddV (base inc flag : V) : Emit V := do
  let sum ← addV base inc
  let page ← hiV base
  let low ← loV sum
  let wrapped ← catV page low
  ternaryV flag wrapped sum

/-- Two operand bytes (R17). -/
def fetch16V : Emit V := do
  let lo ← readPcV
  let hi ← readPcV
  catV hi lo

/-- Three operand bytes (R17). -/
def fetch24V : Emit V := do
  let off ← fetch16V
  let bank ← readPcV
  catV bank off

/-- `loadReg16(A)` (R283). -/
def loadAV : Emit V := do
  let b ← getSlot .b
  let a ← getSlot .a
  catV b a

/-- `storeReg16(A, v, force16)` (R284). -/
def storeAV (force16 : Bool) (v : V) : Emit Unit := do
  let lo ← loV v
  setSlot .a lo
  let hi ← hiV v
  if force16 then setSlot .b hi
  else do
    let m ← getSlot .m
    let wide ← notV m
    ifV wide (setSlot .b hi)

/-- The slot of an index register. -/
def Idx.slot : Idx → Slot
  | .x => .x
  | .y => .y

/-- `loadReg16(X | Y)` (R285). -/
def loadIdxV (i : Idx) : Emit V := do
  let r ← getSlot i.slot
  let xf ← getSlot .xf
  let lo ← loV r
  let low ← zextV lo 16
  ternaryV xf low r

/-- `storeReg16(X | Y, v)` (R286). -/
def storeIdxV (i : Idx) (v : V) : Emit Unit := do
  let r ← getSlot i.slot
  let xf ← getSlot .xf
  let page ← hiV r
  let lo ← loV v
  let kept ← catV page lo
  let out ← ternaryV xf kept v
  setSlot i.slot out

/-- The stack-page lock (R287, R288). -/
def stackLockV (e v : V) : Emit V := do
  let page ← constV 8 1
  let lo ← loV v
  let locked ← catV page lo
  ternaryV e locked v

/-- `storeReg16(S, v)` (R287). -/
def storeSV (v : V) : Emit Unit := do
  let e ← getSlot .e
  let out ← stackLockV e v
  setSlot .s out

/-! ### N, Z and the zero-chain (R212, R270 to R272) -/

/-- N and Z of an 8-bit result; its zero test is stashed. -/
def nzLowV (v : V) : Emit Unit := do
  let n ← bitV v 7
  setSlot .n n
  let z ← isZeroV v
  setSlot .z z
  modEm (fun em => { em with zeroChain := some z.h })

/-- N and Z of the high half: Z ANDed with the stash. -/
def nzHighV (v : V) : Emit Unit := do
  let n ← bitV v 7
  setSlot .n n
  let z ← isZeroV v
  let b ← get
  match b.em.zeroChain with
  | some low => do
    let both ← andV z { h := low, w := 1 }
    setSlot .z both
  | none => setSlot .z z

/-- N and Z of a 16-bit value at the width a flag selects (R272). -/
def nzAtV (flag v : V) : Emit Unit := do
  let lo ← loV v
  let n8 ← bitV v 7
  let n16 ← bitV v 15
  let n ← ternaryV flag n8 n16
  setSlot .n n
  let z8 ← isZeroV lo
  let z16 ← isZeroV v
  let z ← ternaryV flag z8 z16
  setSlot .z z

/-- N and Z of a 16-bit value, all 16 bits. -/
def nz16V (v : V) : Emit Unit := do
  let n ← bitV v 15
  setSlot .n n
  let z ← isZeroV v
  setSlot .z z

/-! ### Addressing modes (R240 to R255) -/

/-- The modes of the library that form an address (R240). -/
inductive LiftMode where
  | dir | dirX | dirY | ind | indLong | indX | indY | sr | abs | absX | absY | long | longX
  deriving DecidableEq, Repr

/-- `(D + off) mod 2^16` with the direct-page penalty (R243, R248). -/
def directBaseV : Emit V := do
  let off ← readPcV
  let d ← getSlot .d
  let dl ← loV d
  let pays ← neqW (.ssa dl) (.imm 0)
  ifV pays incCycle
  let wide ← zextV off 16
  addV d wide

/-- A pointer byte in bank 0 at `p + k`, wrapping in the page under E (R250). -/
def pointerByteV (p : V) (k : Nat) : Emit V := do
  let e ← getSlot .e
  let inc ← constV 16 k
  let at_ ← wrapAddV p inc e
  let addr ← bank0V at_
  readV addr

/-- A 16-bit pointer in bank 0 (R250, R254). -/
def pointer16V (p : V) : Emit V := do
  let addr ← bank0V p
  let lo ← readV addr
  let hi ← pointerByteV p 1
  catV hi lo

/-- The indexing cycle: always for stores, on `(XF = 0) OR cross` for reads (R242, R246). -/
def indexPenaltyV (isStore : Bool) (base idx : V) : Emit Unit :=
  if isStore then incCycle
  else do
    let xf ← getSlot .xf
    let wide ← notV xf
    let sum ← addV base idx
    let before ← hiV base
    let after ← hiV sum
    let crossed ← neqV before after
    let pays ← orV wide crossed
    ifV pays incCycle

/-- `{DBR, off}`. -/
def dataAddrV (off : V) : Emit V := do
  let bank ← getSlot .dbr
  catV bank off

/-- `base + zext_24(idx)` (R82). -/
def indexedV (base idx : V) : Emit V := do
  let wide ← zextV idx 24
  addV base wide

/-- The effective address of a mode, and whether its high byte stays in bank 0 (R80). -/
def eaV (isStore : Bool) : LiftMode → Emit (V × Bool)
  | .dir => do
    let p ← directBaseV
    let addr ← bank0V p
    pure (addr, true)
  | .dirX => do
    let p ← directBaseV
    incCycle
    let i ← loadIdxV .x
    let e ← getSlot .e
    let off ← wrapAddV p i e
    let addr ← bank0V off
    pure (addr, true)
  | .dirY => do
    let p ← directBaseV
    incCycle
    let i ← loadIdxV .y
    let e ← getSlot .e
    let off ← wrapAddV p i e
    let addr ← bank0V off
    pure (addr, true)
  | .ind => do
    let p ← directBaseV
    let ptr ← pointer16V p
    let addr ← dataAddrV ptr
    pure (addr, false)
  | .indLong => do
    let p ← directBaseV
    let ptr ← pointer16V p
    let bank ← pointerByteV p 2
    let addr ← catV bank ptr
    pure (addr, false)
  | .indX => do
    let p ← directBaseV
    incCycle
    let i ← loadIdxV .x
    let e ← getSlot .e
    let q ← wrapAddV p i e
    let ptr ← pointer16V q
    let addr ← dataAddrV ptr
    pure (addr, false)
  | .indY => do
    let p ← directBaseV
    let ptr ← pointer16V p
    let i ← loadIdxV .y
    let base ← dataAddrV ptr
    let addr ← indexedV base i
    indexPenaltyV isStore ptr i
    pure (addr, false)
  | .sr => do
    let b ← get
    let off ← (match b.cfg.srOffset with
      | .twoBytes => fetch16V
      | .oneByte => do
        let lo ← readPcV
        zextV lo 16)
    incCycle
    let s ← getSlot .s
    let sum ← addV s off
    let addr ← bank0V sum
    pure (addr, true)
  | .abs => do
    let off ← fetch16V
    let addr ← dataAddrV off
    pure (addr, false)
  | .absX => do
    let off ← fetch16V
    let i ← loadIdxV .x
    let base ← dataAddrV off
    let addr ← indexedV base i
    indexPenaltyV isStore off i
    pure (addr, false)
  | .absY => do
    let off ← fetch16V
    let i ← loadIdxV .y
    let base ← dataAddrV off
    let addr ← indexedV base i
    indexPenaltyV isStore off i
    pure (addr, false)
  | .long => do
    let addr ← fetch24V
    pure (addr, false)
  | .longX => do
    let base ← fetch24V
    let i ← loadIdxV .x
    let addr ← indexedV base i
    pure (addr, false)

/-- `ea_hi` (R80). -/
def eaHiV (ea : V × Bool) : Emit V :=
  if ea.2 then do
    let off ← extractV ea.1 0 16
    let next ← addW (.ssa off) (.imm 1)
    bank0V next
  else addW (.ssa ea.1) (.imm 1)

/-- The high byte of a 16-bit operand, read only when the width flag is 0 (R292, R295). -/
def readHighV (flag : V) (ea : V × Bool) : Emit V := do
  let wide ← notV flag
  let addr ← eaHiV ea
  ifV wide (readV addr)

/-- `WriteOperand` of a 16-bit value at the width a flag selects (R296). -/
def writeOperandV (flag : V) (ea : V × Bool) (v : V) : Emit Unit := do
  let lo ← loV v
  writeV ea.1 lo
  let hi ← hiV v
  let addr ← eaHiV ea
  let wide ← notV flag
  ifV wide (writeV addr hi)

/-! ### The accumulator family (R292, R310 to R318) -/

/-- `add_carry_overflow(dst, val)` with a given carry-in; answers the sum and the carry, and sets V when asked (R273). -/
def addCarryV (dst val c : V) (setsV : Bool) : Emit (V × V) := do
  let x ← zextV dst 9
  let y ← zextV val 9
  let z ← zextV c 9
  let xy ← addV x y
  let out ← addV xy z
  let carry ← bitV out 8
  let res ← extractV out 0 8
  if setsV then do
    let so ← bitV out 7
    let sd ← bitV dst 7
    let sv ← bitV val 7
    let p ← xorV sd so
    let q ← xorV sv so
    let ov ← andV p q
    setSlot .v ov
  pure (res, carry)

/-- One 8-bit half of an operation of the family, on the slot that holds that half of the accumulator (R292). -/
def aluHalfV (op : AluOp) (sl : Slot) (nz : V → Emit Unit) (low : Bool) (val : V) : Emit Unit := do
  let dst ← getSlot sl
  match op with
  | .ora => do
    let r ← orV dst val
    setSlot sl r
    nz r
  | .and => do
    let r ← andV dst val
    setSlot sl r
    nz r
  | .eor => do
    let r ← xorV dst val
    setSlot sl r
    nz r
  | .lda => do
    setSlot sl val
    nz val
  | .adc => do
    let c ← getSlot .c
    let (r, carry) ← addCarryV dst val c true
    setSlot .c carry
    setSlot sl r
    nz r
  | .sbc => do
    let c ← getSlot .c
    let inv ← notV val
    let (r, carry) ← addCarryV dst inv c true
    setSlot .c carry
    setSlot sl r
    nz r
  | .cmp => do
    let c ← if low then constV 1 1 else getSlot .c
    let inv ← notV val
    let (r, carry) ← addCarryV dst inv c false
    setSlot .c carry
    nz r

/-- A memory form: the low half, then the high half inside `If(¬M)` (R292, R310). -/
def liftAluMem (op : AluOp) (mode : LiftMode) : Emit Unit := do
  let ea ← eaV false mode
  let lo ← readV ea.1
  aluHalfV op .a nzLowV true lo
  let m ← getSlot .m
  let wide ← notV m
  let addr ← eaHiV ea
  ifV wide (do
    let hi ← readV addr
    aluHalfV op .b nzHighV false hi)

/-- The immediate form: `ReadPc(M)`, split the same way (R256). -/
def liftAluImm (op : AluOp) : Emit Unit := do
  let lo ← readPcV
  aluHalfV op .a nzLowV true lo
  let m ← getSlot .m
  let wide ← notV m
  ifV wide (do
    let hi ← readPcV
    aluHalfV op .b nzHighV false hi)

/-- A store of a 16-bit value at the width a slot selects (R318, R348, R373). -/
def liftStore (width : Slot) (value : Emit V) (mode : LiftMode) : Emit Unit := do
  let ea ← eaV true mode
  let v ← value
  let flag ← getSlot width
  writeOperandV flag ea v

/-! ### Read-modify-write, BIT (R278, R279, R293, R294, R347) -/

/-- Result and C of an operation on a value of its own width (R278, R279). -/
def rmwV (op : RmwOp) (v : V) : Emit (V × V) := do
  let c ← getSlot .c
  match op with
  | .asl => do
    let sh ← shlV v 1
    let r ← extractV sh 0 v.w
    let out ← bitV v (v.w - 1)
    pure (r, out)
  | .rol => do
    let sh ← shlV v 1
    let r ← extractV sh 0 v.w
    let cw ← zextV c v.w
    let rc ← orV r cw
    let out ← bitV v (v.w - 1)
    pure (rc, out)
  | .lsr => do
    let sh ← shrV v 1
    let r ← zextV sh v.w
    let out ← bitV v 0
    pure (r, out)
  | .ror => do
    let sh ← shrV v 1
    let r ← catV c sh
    let out ← bitV v 0
    pure (r, out)
  | .inc => do
    let r ← addW (.ssa v) (.imm 1)
    pure (r, c)
  | .dec => do
    let r ← subW (.ssa v) (.imm 1)
    pure (r, c)

/-- The accumulator form: two `If` arms, one a width (R293). -/
def liftRmwAcc (op : RmwOp) : Emit Unit := do
  incCycle
  let m ← getSlot .m
  ifV m (do
    let a ← getSlot .a
    let (r, c) ← rmwV op a
    setSlot .a r
    setSlot .c c
    nzLowV r)
  let wide ← notV m
  ifV wide (do
    let a ← loadAV
    let (r, c) ← rmwV op a
    let lo ← loV r
    let hi ← hiV r
    setSlot .a lo
    setSlot .b hi
    setSlot .c c
    nz16V r)

/-- The memory form: read, modify cycle, both widths computed, high byte written first (R294). -/
def liftRmwMem (op : RmwOp) (mode : LiftMode) : Emit Unit := do
  let ea ← eaV true mode
  let lo ← readV ea.1
  let m ← getSlot .m
  let hi ← readHighV m ea
  incCycle
  let wide ← notV m
  let v16 ← catV hi lo
  let (r8, c8) ← rmwV op lo
  let (r16, c16) ← rmwV op v16
  ifV m (do
    setSlot .c c8
    nzLowV r8)
  ifV wide (do
    setSlot .c c16
    nz16V r16)
  let out8 ← zextV r8 16
  let out ← ternaryV m out8 r16
  let outLo ← loV out
  let outHi ← hiV out
  let addr ← eaHiV ea
  ifV wide (writeV addr outHi)
  writeV ea.1 outLo

/-- Z of BIT for one half, through the zero-chain. -/
def bitZV (sl : Slot) (low : Bool) (val : V) : Emit Unit := do
  let dst ← getSlot sl
  let both ← andV dst val
  let z ← isZeroV both
  if low then do
    setSlot .z z
    modEm (fun em => { em with zeroChain := some z.h })
  else do
    let b ← get
    match b.em.zeroChain with
    | some stash => do
      let all ← andV z { h := stash, w := 1 }
      setSlot .z all
    | none => setSlot .z z

/-- N and V of BIT from the top byte of the operand. -/
def bitNVV (val : V) : Emit Unit := do
  let n ← bitV val 7
  setSlot .n n
  let v ← bitV val 6
  setSlot .v v

/-- BIT on memory (R347). -/
def liftBitMem (mode : LiftMode) : Emit Unit := do
  let ea ← eaV false mode
  let lo ← readV ea.1
  bitZV .a true lo
  bitNVV lo
  let m ← getSlot .m
  let wide ← notV m
  let addr ← eaHiV ea
  ifV wide (do
    let hi ← readV addr
    bitZV .b false hi
    bitNVV hi)

/-- BIT immediate (R347). -/
def liftBitImm : Emit Unit := do
  let lo ← readPcV
  bitZV .a true lo
  let m ← getSlot .m
  let wide ← notV m
  ifV wide (do
    let hi ← readPcV
    bitZV .b false hi)

/-! ### The index family (R370 to R380) -/

/-- The register and N, Z at wX (R370). -/
def setIdxV (i : Idx) (v : V) : Emit Unit := do
  storeIdxV i v
  let xf ← getSlot .xf
  nzAtV xf v

/-- A memory operand at wX. -/
def idxOperandV (mode : LiftMode) : Emit V := do
  let ea ← eaV false mode
  let lo ← readV ea.1
  let xf ← getSlot .xf
  let hi ← readHighV xf ea
  catV hi lo

/-- An immediate operand at wX: `ReadPc(Flag_X)`. -/
def idxImmV : Emit V := do
  let xf ← getSlot .xf
  readPcFlagV xf

def liftLdIdx (i : Idx) (operand : Emit V) : Emit Unit := do
  let v ← operand
  setIdxV i v

/-- CPX, CPY: the low halves, then the high halves inside `If(¬X_flag)` (R277, R375). -/
def liftCpIdx (i : Idx) (operand : Emit V) : Emit Unit := do
  let v ← operand
  let r ← loadIdxV i
  let one ← constV 1 1
  let rl ← loV r
  let vl ← loV v
  let il ← notV vl
  let (dl, cl) ← addCarryV rl il one false
  setSlot .c cl
  nzLowV dl
  let xf ← getSlot .xf
  let wide ← notV xf
  ifV wide (do
    let rh ← hiV r
    let vh ← hiV v
    let ih ← notV vh
    let (dh, ch) ← addCarryV rh ih cl false
    setSlot .c ch
    nzHighV dh)

def liftStepIdx (i : Idx) (up : Bool) : Emit Unit := do
  incCycle
  let r ← loadIdxV i
  let v ← if up then addW (.ssa r) (.imm 1) else subW (.ssa r) (.imm 1)
  setIdxV i v

/-! ### Transfers, flags (R400 to R422) -/

/-- One internal cycle, then an effect. -/
def liftImplied (body : Emit Unit) : Emit Unit := do
  incCycle
  body

def toIdxV (i : Idx) (source : Emit V) : Emit Unit := do
  let v ← source
  setIdxV i v

def idxToAV (i : Idx) : Emit Unit := do
  let v ← loadIdxV i
  storeAV false v
  let m ← getSlot .m
  nzAtV m v

def slotToAV (sl : Slot) : Emit Unit := do
  let v ← getSlot sl
  storeAV true v
  nz16V v

def tcdV : Emit Unit := do
  let v ← loadAV
  setSlot .d v
  nz16V v

def xbaV : Emit Unit := do
  incCycle
  let a ← getSlot .a
  let b ← getSlot .b
  setSlot .a b
  setSlot .b a
  nzLowV b

def xceV : Emit Unit := do
  let c ← getSlot .c
  let e ← getSlot .e
  setSlot .c e
  setSlot .e c
  ifV c (do
    let one ← constV 1 1
    setSlot .m one
    setSlot .xf one
    let s ← getSlot .s
    let page ← constV 8 1
    let lo ← loV s
    let locked ← catV page lo
    setSlot .s locked)

def setFlagV (sl : Slot) (value : Nat) : Emit Unit := do
  let v ← constV 1 value
  setSlot sl v

/-! ### The stack (R288 to R291, R440 to R454) -/

def modifyStackV (up : Bool) : Emit Unit := do
  let s ← getSlot .s
  let next ← if up then addW (.ssa s) (.imm 1) else subW (.ssa s) (.imm 1)
  let e ← getSlot .e
  let out ← stackLockV e next
  setSlot .s out

def pushV (v : V) : Emit Unit := do
  let s ← getSlot .s
  let addr ← bank0V s
  writeV addr v
  modifyStackV false

def pullV : Emit V := do
  modifyStackV true
  let s ← getSlot .s
  let addr ← bank0V s
  readV addr

/-- A push whose high byte is inside `If(¬flag)`. -/
def liftPushAt (width : Slot) (value : Emit V) : Emit Unit := do
  incCycle
  let v ← value
  let flag ← getSlot width
  let wide ← notV flag
  let hi ← hiV v
  ifV wide (pushV hi)
  let lo ← loV v
  pushV lo

def liftPush16 (sl : Slot) : Emit Unit := do
  incCycle
  let v ← getSlot sl
  let hi ← hiV v
  pushV hi
  let lo ← loV v
  pushV lo

def liftPush8 (value : Emit V) : Emit Unit := do
  incCycle
  let v ← value
  pushV v

/-- `pack_flags()` (R281). -/
def packFlagsV : Emit V := do
  let n ← getSlot .n
  let v ← getSlot .v
  let m ← getSlot .m
  let xf ← getSlot .xf
  let df ← getSlot .df
  let i ← getSlot .i
  let z ← getSlot .z
  let c ← getSlot .c
  let e ← getSlot .e
  let mm ← orV e m
  let xx ← orV e xf
  let p1 ← catV n v
  let p2 ← catV p1 mm
  let p3 ← catV p2 xx
  let p4 ← catV p3 df
  let p5 ← catV p4 i
  let p6 ← catV p5 z
  catV p6 c

/-- `unpack_flags(p)` (R282). -/
def unpackFlagsV (p : V) : Emit Unit := do
  let n ← bitV p 7
  setSlot .n n
  let v ← bitV p 6
  setSlot .v v
  let e ← getSlot .e
  let native ← notV e
  ifV native (do
    let m ← bitV p 5
    setSlot .m m
    let xf ← bitV p 4
    setSlot .xf xf)
  let df ← bitV p 3
  setSlot .df df
  let i ← bitV p 2
  setSlot .i i
  let z ← bitV p 1
  setSlot .z z
  let c ← bitV p 0
  setSlot .c c

/-- A pull whose high byte is inside `If(¬flag)`, then an effect on the 16-bit value. -/
def pullAtV (width : Slot) : Emit V := do
  incCycle
  incCycle
  let lo ← pullV
  let flag ← getSlot width
  let wide ← notV flag
  let hi ← ifV wide pullV
  catV hi lo

def liftPla : Emit Unit := do
  let v ← pullAtV .m
  storeAV false v
  let m ← getSlot .m
  nzAtV m v

def liftPlIdx (i : Idx) : Emit Unit := do
  let v ← pullAtV .xf
  setIdxV i v

def liftPull8 (f : V → Emit Unit) : Emit Unit := do
  incCycle
  incCycle
  let v ← pullV
  f v

def pull16V : Emit V := do
  let lo ← pullV
  let hi ← pullV
  catV hi lo

def liftPld : Emit Unit := do
  incCycle
  incCycle
  let v ← pull16V
  setSlot .d v
  nz16V v

def setDbrV (v : V) : Emit Unit := do
  setSlot .dbr v
  nzLowV v

/-! ### Control transfer (R470 to R489) -/

def liftJmpAbs : Emit Unit := do
  let t ← fetch16V
  setSlot .pc t
  endBlockV

def liftJmpLong : Emit Unit := do
  let t ← fetch24V
  let pc ← extractV t 0 16
  let bank ← extractV t 16 8
  setSlot .pc pc
  setSlot .pbr bank
  endBlockV

def liftJmpInd : Emit Unit := do
  let ptr ← fetch16V
  let t ← pointer16V ptr
  setSlot .pc t
  endBlockV

def liftJsr : Emit Unit := do
  let t ← fetch16V
  incCycle
  let pc ← getSlot .pc
  let ret ← subW (.ssa pc) (.imm 1)
  let hi ← hiV ret
  pushV hi
  let lo ← loV ret
  pushV lo
  setSlot .pc t
  endBlockV

def liftRts : Emit Unit := do
  incCycle
  incCycle
  let t ← pull16V
  incCycle
  let next ← addW (.ssa t) (.imm 1)
  setSlot .pc next
  endBlockV

def liftRti : Emit Unit := do
  incCycle
  incCycle
  let p ← pullV
  unpackFlagsV p
  let t ← pull16V
  let e ← getSlot .e
  let native ← notV e
  ifV native (do
    let bank ← pullV
    setSlot .pbr bank)
  setSlot .pc t
  endBlockV

/-- The common branch rule (R480). -/
def liftBranch (cond : Emit V) : Emit Unit := do
  let d ← readPcV
  let q ← cond
  let sign ← bitV d 7
  let ones ← constV 8 255
  let zero ← constV 8 0
  let ext ← ternaryV sign ones zero
  let wide ← catV ext d
  ifV q (do
    incCycle
    let pc ← getSlot .pc
    let t ← addV pc wide
    let e ← getSlot .e
    let before ← hiV pc
    let after ← hiV t
    let crossed ← neqV before after
    let pays ← andV e crossed
    ifV pays incCycle
    setSlot .pc t)
  endBlockV

/-- A flag as a condition. -/
def flagSet (sl : Slot) : Emit V := getSlot sl

/-- A flag's complement as a condition. -/
def flagClear (sl : Slot) : Emit V := do
  let v ← getSlot sl
  notV v

/-! ### The dispatch table (R112, R113): an empty slot is `none` (R222) -/

/-- Opcodes 0x00 to 0x0F. -/
def liftRow0 (column : Nat) : Option (Emit Unit) :=
  match column with
  | 0 => none
  | 1 => some (liftAluMem .ora .indX)
  | 2 => none
  | 3 => some (liftAluMem .ora .sr)
  | 4 => none
  | 5 => some (liftAluMem .ora .dir)
  | 6 => some (liftRmwMem .asl .dir)
  | 7 => some (liftAluMem .ora .indLong)
  | 8 => some (liftPush8 packFlagsV)
  | 9 => some (liftAluImm .ora)
  | 10 => some (liftRmwAcc .asl)
  | 11 => some (liftPush16 .d)
  | 12 => none
  | 13 => some (liftAluMem .ora .abs)
  | 14 => some (liftRmwMem .asl .abs)
  | _ => some (liftAluMem .ora .long)

/-- Opcodes 0x10 to 0x1F. -/
def liftRow1 (column : Nat) : Option (Emit Unit) :=
  match column with
  | 0 => some (liftBranch (flagClear .n))
  | 1 => some (liftAluMem .ora .indY)
  | 2 => some (liftAluMem .ora .ind)
  | 3 => none
  | 4 => none
  | 5 => some (liftAluMem .ora .dirX)
  | 6 => some (liftRmwMem .asl .dirX)
  | 7 => none
  | 8 => some (liftImplied (setFlagV .c 0))
  | 9 => some (liftAluMem .ora .absY)
  | 10 => some (liftRmwAcc .inc)
  | 11 => some (liftImplied (loadAV >>= storeSV))
  | 12 => none
  | 13 => some (liftAluMem .ora .absX)
  | 14 => some (liftRmwMem .asl .absX)
  | _ => some (liftAluMem .ora .longX)

/-- Opcodes 0x20 to 0x2F. -/
def liftRow2 (column : Nat) : Option (Emit Unit) :=
  match column with
  | 0 => some liftJsr
  | 1 => some (liftAluMem .and .indX)
  | 2 => none
  | 3 => some (liftAluMem .and .sr)
  | 4 => some (liftBitMem .dir)
  | 5 => some (liftAluMem .and .dir)
  | 6 => some (liftRmwMem .rol .dir)
  | 7 => some (liftAluMem .and .indLong)
  | 8 => some (liftPull8 unpackFlagsV)
  | 9 => some (liftAluImm .and)
  | 10 => some (liftRmwAcc .rol)
  | 11 => some liftPld
  | 12 => some (liftBitMem .abs)
  | 13 => some (liftAluMem .and .abs)
  | 14 => some (liftRmwMem .rol .abs)
  | _ => some (liftAluMem .and .long)

/-- Opcodes 0x30 to 0x3F. -/
def liftRow3 (column : Nat) : Option (Emit Unit) :=
  match column with
  | 0 => some (liftBranch (flagSet .n))
  | 1 => some (liftAluMem .and .indY)
  | 2 => some (liftAluMem .and .ind)
  | 3 => none
  | 4 => some (liftBitMem .dirX)
  | 5 => some (liftAluMem .and .dirX)
  | 6 => some (liftRmwMem .rol .dirX)
  | 7 => none
  | 8 => some (liftImplied (setFlagV .c 1))
  | 9 => some (liftAluMem .and .absY)
  | 10 => some (liftRmwAcc .dec)
  | 11 => some (liftImplied (slotToAV .s))
  | 12 => some (liftBitMem .absX)
  | 13 => some (liftAluMem .and .absX)
  | 14 => some (liftRmwMem .rol .absX)
  | _ => some (liftAluMem .and .longX)

/-- Opcodes 0x40 to 0x4F. -/
def liftRow4 (column : Nat) : Option (Emit Unit) :=
  match column with
  | 0 => some liftRti
  | 1 => some (liftAluMem .eor .indX)
  | 2 => none
  | 3 => some (liftAluMem .eor .sr)
  | 4 => none
  | 5 => some (liftAluMem .eor .dir)
  | 6 => some (liftRmwMem .lsr .dir)
  | 7 => some (liftAluMem .eor .indLong)
  | 8 => some (liftPushAt .m loadAV)
  | 9 => some (liftAluImm .eor)
  | 10 => some (liftRmwAcc .lsr)
  | 11 => some (liftPush8 (getSlot .pbr))
  | 12 => some liftJmpAbs
  | 13 => some (liftAluMem .eor .abs)
  | 14 => some (liftRmwMem .lsr .abs)
  | _ => some (liftAluMem .eor .long)

/-- Opcodes 0x50 to 0x5F. -/
def liftRow5 (column : Nat) : Option (Emit Unit) :=
  match column with
  | 0 => some (liftBranch (flagClear .v))
  | 1 => some (liftAluMem .eor .indY)
  | 2 => some (liftAluMem .eor .ind)
  | 3 => none
  | 4 => none
  | 5 => some (liftAluMem .eor .dirX)
  | 6 => some (liftRmwMem .lsr .dirX)
  | 7 => none
  | 8 => some (liftImplied (setFlagV .i 0))
  | 9 => some (liftAluMem .eor .absY)
  | 10 => some (liftPushAt .xf (loadIdxV .y))
  | 11 => some (liftImplied tcdV)
  | 12 => some liftJmpLong
  | 13 => some (liftAluMem .eor .absX)
  | 14 => some (liftRmwMem .lsr .absX)
  | _ => some (liftAluMem .eor .longX)

/-- Opcodes 0x60 to 0x6F. -/
def liftRow6 (column : Nat) : Option (Emit Unit) :=
  match column with
  | 0 => some liftRts
  | 1 => some (liftAluMem .adc .indX)
  | 2 => none
  | 3 => some (liftAluMem .adc .sr)
  | 4 => some (liftStore .m (constV 16 0) .dir)
  | 5 => some (liftAluMem .adc .dir)
  | 6 => some (liftRmwMem .ror .dir)
  | 7 => some (liftAluMem .adc .indLong)
  | 8 => some liftPla
  | 9 => some (liftAluImm .adc)
  | 10 => some (liftRmwAcc .ror)
  | 11 => none
  | 12 => some liftJmpInd
  | 13 => some (liftAluMem .adc .abs)
  | 14 => some (liftRmwMem .ror .abs)
  | _ => some (liftAluMem .adc .long)

/-- Opcodes 0x70 to 0x7F. -/
def liftRow7 (column : Nat) : Option (Emit Unit) :=
  match column with
  | 0 => some (liftBranch (flagSet .v))
  | 1 => some (liftAluMem .adc .indY)
  | 2 => some (liftAluMem .adc .ind)
  | 3 => none
  | 4 => some (liftStore .m (constV 16 0) .dirX)
  | 5 => some (liftAluMem .adc .dirX)
  | 6 => some (liftRmwMem .ror .dirX)
  | 7 => none
  | 8 => some (liftImplied (setFlagV .i 1))
  | 9 => some (liftAluMem .adc .absY)
  | 10 => some (liftPlIdx .y)
  | 11 => some (liftImplied (slotToAV .d))
  | 12 => none
  | 13 => some (liftAluMem .adc .absX)
  | 14 => some (liftRmwMem .ror .absX)
  | _ => some (liftAluMem .adc .longX)

/-- Opcodes 0x80 to 0x8F. -/
def liftRow8 (column : Nat) : Option (Emit Unit) :=
  match column with
  | 0 => some (liftBranch (constV 1 1))
  | 1 => some (liftStore .m loadAV .indX)
  | 2 => none
  | 3 => some (liftStore .m loadAV .sr)
  | 4 => some (liftStore .xf (loadIdxV .y) .dir)
  | 5 => some (liftStore .m loadAV .dir)
  | 6 => some (liftStore .xf (loadIdxV .x) .dir)
  | 7 => some (liftStore .m loadAV .indLong)
  | 8 => some (liftStepIdx .y false)
  | 9 => some liftBitImm
  | 10 => some (liftImplied (idxToAV .x))
  | 11 => some (liftPush8 (getSlot .dbr))
  | 12 => some (liftStore .xf (loadIdxV .y) .abs)
  | 13 => some (liftStore .m loadAV .abs)
  | 14 => some (liftStore .xf (loadIdxV .x) .abs)
  | _ => some (liftStore .m loadAV .long)

/-- Opcodes 0x90 to 0x9F. -/
def liftRow9 (column : Nat) : Option (Emit Unit) :=
  match column with
  | 0 => some (liftBranch (flagClear .c))
  | 1 => some (liftStore .m loadAV .indY)
  | 2 => some (liftStore .m loadAV .ind)
  | 3 => none
  | 4 => some (liftStore .xf (loadIdxV .y) .dirX)
  | 5 => some (liftStore .m loadAV .dirX)
  | 6 => some (liftStore .xf (loadIdxV .x) .dirY)
  | 7 => none
  | 8 => some (liftImplied (idxToAV .y))
  | 9 => some (liftStore .m loadAV .absY)
  | 10 => some (liftImplied (loadIdxV .x >>= storeSV))
  | 11 => some (liftImplied (toIdxV .y (loadIdxV .x)))
  | 12 => some (liftStore .m (constV 16 0) .abs)
  | 13 => some (liftStore .m loadAV .absX)
  | 14 => some (liftStore .m (constV 16 0) .absX)
  | _ => some (liftStore .m loadAV .longX)

/-- Opcodes 0xA0 to 0xAF. -/
def liftRowA (column : Nat) : Option (Emit Unit) :=
  match column with
  | 0 => some (liftLdIdx .y idxImmV)
  | 1 => some (liftAluMem .lda .indX)
  | 2 => some (liftLdIdx .x idxImmV)
  | 3 => some (liftAluMem .lda .sr)
  | 4 => some (liftLdIdx .y (idxOperandV .dir))
  | 5 => some (liftAluMem .lda .dir)
  | 6 => some (liftLdIdx .x (idxOperandV .dir))
  | 7 => some (liftAluMem .lda .indLong)
  | 8 => some (liftImplied (toIdxV .y loadAV))
  | 9 => some (liftAluImm .lda)
  | 10 => some (liftImplied (toIdxV .x loadAV))
  | 11 => some (liftPull8 setDbrV)
  | 12 => some (liftLdIdx .y (idxOperandV .abs))
  | 13 => some (liftAluMem .lda .abs)
  | 14 => some (liftLdIdx .x (idxOperandV .abs))
  | _ => some (liftAluMem .lda .long)

/-- Opcodes 0xB0 to 0xBF. -/
def liftRowB (column : Nat) : Option (Emit Unit) :=
  match column with
  | 0 => some (liftBranch (flagSet .c))
  | 1 => some (liftAluMem .lda .indY)
  | 2 => some (liftAluMem .lda .ind)
  | 3 => none
  | 4 => some (liftLdIdx .y (idxOperandV .dirX))
  | 5 => some (liftAluMem .lda .dirX)
  | 6 => some (liftLdIdx .x (idxOperandV .dirY))
  | 7 => none
  | 8 => some (liftImplied (setFlagV .v 0))
  | 9 => some (liftAluMem .lda .absY)
  | 10 => some (liftImplied (toIdxV .x (getSlot .s)))
  | 11 => some (liftImplied (toIdxV .x (loadIdxV .y)))
  | 12 => some (liftLdIdx .y (idxOperandV .absX))
  | 13 => some (liftAluMem .lda .absX)
  | 14 => some (liftLdIdx .x (idxOperandV .absY))
  | _ => some (liftAluMem .lda .longX)

/-- Opcodes 0xC0 to 0xCF. -/
def liftRowC (column : Nat) : Option (Emit Unit) :=
  match column with
  | 0 => some (liftCpIdx .y idxImmV)
  | 1 => some (liftAluMem .cmp .indX)
  | 2 => none
  | 3 => some (liftAluMem .cmp .sr)
  | 4 => some (liftCpIdx .y (idxOperandV .dir))
  | 5 => some (liftAluMem .cmp .dir)
  | 6 => some (liftRmwMem .dec .dir)
  | 7 => some (liftAluMem .cmp .indLong)
  | 8 => some (liftStepIdx .y true)
  | 9 => some (liftAluImm .cmp)
  | 10 => some (liftStepIdx .x false)
  | 11 => none
  | 12 => some (liftCpIdx .y (idxOperandV .abs))
  | 13 => some (liftAluMem .cmp .abs)
  | 14 => some (liftRmwMem .dec .abs)
  | _ => some (liftAluMem .cmp .long)

/-- Opcodes 0xD0 to 0xDF. -/
def liftRowD (column : Nat) : Option (Emit Unit) :=
  match column with
  | 0 => some (liftBranch (flagClear .z))
  | 1 => some (liftAluMem .cmp .indY)
  | 2 => some (liftAluMem .cmp .ind)
  | 3 => none
  | 4 => none
  | 5 => some (liftAluMem .cmp .dirX)
  | 6 => some (liftRmwMem .dec .dirX)
  | 7 => none
  | 8 => some (liftImplied (setFlagV .df 0))
  | 9 => some (liftAluMem .cmp .absY)
  | 10 => some (liftPushAt .xf (loadIdxV .x))
  | 11 => none
  | 12 => none
  | 13 => some (liftAluMem .cmp .absX)
  | 14 => some (liftRmwMem .dec .absX)
  | _ => some (liftAluMem .cmp .longX)

/-- Opcodes 0xE0 to 0xEF. -/
def liftRowE (column : Nat) : Option (Emit Unit) :=
  match column with
  | 0 => some (liftCpIdx .x idxImmV)
  | 1 => some (liftAluMem .sbc .indX)
  | 2 => none
  | 3 => some (liftAluMem .sbc .sr)
  | 4 => some (liftCpIdx .x (idxOperandV .dir))
  | 5 => some (liftAluMem .sbc .dir)
  | 6 => some (liftRmwMem .inc .dir)
  | 7 => some (liftAluMem .sbc .indLong)
  | 8 => some (liftStepIdx .x true)
  | 9 => some (liftAluImm .sbc)
  | 10 => some (liftImplied (pure ()))
  | 11 => some (liftImplied xbaV)
  | 12 => some (liftCpIdx .x (idxOperandV .abs))
  | 13 => some (liftAluMem .sbc .abs)
  | 14 => some (liftRmwMem .inc .abs)
  | _ => some (liftAluMem .sbc .long)

/-- Opcodes 0xF0 to 0xFF. -/
def liftRowF (column : Nat) : Option (Emit Unit) :=
  match column with
  | 0 => some (liftBranch (flagSet .z))
  | 1 => some (liftAluMem .sbc .indY)
  | 2 => some (liftAluMem .sbc .ind)
  | 3 => none
  | 4 => none
  | 5 => some (liftAluMem .sbc .dirX)
  | 6 => some (liftRmwMem .inc .dirX)
  | 7 => none
  | 8 => some (liftImplied (setFlagV .df 1))
  | 9 => some (liftAluMem .sbc .absY)
  | 10 => some (liftPlIdx .x)
  | 11 => some (liftImplied xceV)
  | 12 => none
  | 13 => some (liftAluMem .sbc .absX)
  | 14 => some (liftRmwMem .inc .absX)
  | _ => some (liftAluMem .sbc .longX)

/-- The lifter routine of an opcode byte, none for the 38 empty slots (R113, R222). -/
def lifterOf (op : Byte) : Option (Emit Unit) :=
  let column := op.toNat % 16
  match op.toNat / 16 with
  | 0 => liftRow0 column
  | 1 => liftRow1 column
  | 2 => liftRow2 column
  | 3 => liftRow3 column
  | 4 => liftRow4 column
  | 5 => liftRow5 column
  | 6 => liftRow6 column
  | 7 => liftRow7 column
  | 8 => liftRow8 column
  | 9 => liftRow9 column
  | 10 => liftRowA column
  | 11 => liftRowB column
  | 12 => liftRowC column
  | 13 => liftRowD column
  | 14 => liftRowE column
  | _ => liftRowF column

/-- Lifting one instruction: the opcode fetch and Assert, then its routine (R219). -/
def liftOpcode (op : Byte) (routine : Emit Unit) : Emit Unit := do
  emitOpcode op
  routine

end Sys2Proof.Machine
end

