-- ==== Sys2Proof/Machine/Driver.lean ====
section
/-! DEFINITION. The block driver (41_emitter_driver.md R216 to R222): open a block, lift one instruction, interpret the new tail,
finalize at a block end or at the end of the budget (60_exceptions.md R534), lift again after an AssertFailure (R502). Here
`State.r` is the register file of bus 0, read by the prologue and written by Finalize (10_state.md R33): during a
block it keeps the block's launch values and the current values are those of the register-state map (R34, R569). -/

namespace Sys2Proof.Machine

/-- Going on from a next state. -/
def andThen (o : Host.Outcome State Fault Refusal) (f : State → Host.Outcome State Fault Refusal) :
    Host.Outcome State Fault Refusal :=
  match o with
  | .next s => f s
  | .fault x => .fault x
  | .refused x => .refused x

/-- The partial interpreter: pending nodes in ascending order, at most `fuel` of them (R161, R162). -/
def interpret : Nat → State → Host.Outcome State Fault Refusal
  | 0, s => .next s
  | fuel + 1, s =>
    match s.pendingNode with
    | none => .next s
    | some w => andThen (stepNode w s) (interpret fuel)

/-- Interpreting every pending node (R162, R220). -/
def interpretTail (s : State) : Host.Outcome State Fault Refusal :=
  interpret (s.arena.length - s.vals.length) s

/-- The value of a slot's map entry (R34, R201). -/
def mapValue (s : State) (em : Emitter) (sl : Slot) : Nat :=
  match s.vals[(em.regMap.get sl.ord).toNat]? with
  | some v => v.val.toNat
  | none => 0

/-- Setting the given slots to their map values. -/
def regsOfMap (s : State) (em : Emitter) : List Slot → Regs → Regs
  | [], r => r
  | sl :: rest, r => regsOfMap s em rest ((writeSlot r sl.ord.val (mapValue s em sl)).getD r)

/-- The architected registers at an instruction boundary: the map's values while a block is open, else the register
file (R34). -/
def currentRegs (s : State) : Regs :=
  match s.em with
  | some em => regsOfMap s em Slot.all s.r
  | none => s.r

/-- Running a construction on the block in progress, then interpreting what it appended (R220). A construction error, the arena's
capacity among them (R12), is StructuralIRError. DESIGN CHOICE (log 24): it holds the state before the construction, without the
nodes it had appended, and in it the register file of bus 0; R505 and U11 leave that open. -/
def buildAndInterpret (em : Emitter) (work : Emit Unit) (s : State) : Host.Outcome State Fault Refusal :=
  match work { cfg := s.cfg, arena := s.arena, em := em, ending := s.ending } with
  | .ok _ b => interpretTail { s with arena := b.arena, em := some b.em, ending := b.ending }
  | .error why b => .fault (.structuralIr b.arena.length why s)

/-- A new Emitter at the register file's `{PBR, PC}`, its prologue interpreted (R200, R216, R560). -/
def openBlock (s : State) : Host.Outcome State Fault Refusal :=
  buildAndInterpret (Emitter.empty s.r.pc s.r.pbr) prologueV
    { s with arena := [], vals := [], em := none, ending := false }

/-- The arena is discarded: no block is in progress (R144). DESIGN CHOICE (log 27): the value array is emptied with it, which R144
leaves open. -/
def discardBlock (s : State) : State := { s with arena := [], vals := [], em := none }

/-- Finalize, interpret its stores, discard the block (R217, R218, R220). -/
def closeBlock (s : State) : Host.Outcome State Fault Refusal :=
  match s.em with
  | some em => andThen (buildAndInterpret em finalizeV s) (fun t => .next (discardBlock t))
  | none => .next s

/-- Recovery from AssertFailure: the block is discarded and the next lift starts at the failing instruction, with the
register state at its start (R502, D34). -/
def relift (start : State) : State := discardBlock { start with r := currentRegs start }

/-- Lifting and interpreting the instruction at the current `{PBR, PC}` of an open block, and closing the block if it ended
(R220, R222, R507). A fault of the lift-time read or of the dispatch holds the current registers. DESIGN CHOICE (log 24): a
fault raised while the nodes are interpreted holds the register file of bus 0, that is the block's launch registers, beside
the memory at the fault; R505 and U11 leave open which register file it is. -/
def driveInstr (s : State) : Host.Outcome State Fault Refusal :=
  match s.em with
  | none => .next s
  | some em =>
    let g := currentRegs s
    let a := mkAddr g.pbr g.pc
    if a.toNat < s.cfg.memBytes then
      let op := Memory.read s.mem a.toNat
      match lifterOf op with
      | none => .fault (.unimplementedOpcode op a { s with r := g })
      | some routine =>
        match buildAndInterpret em (liftOpcode op routine) s with
        | .next t => if t.ending then closeBlock t else .next t
        | .fault (.assertFailure _ _ _ _) => .next (relift s)
        | .fault f => .fault f
        | .refused x => .refused x
    else .fault (.outOfRangeMemory a .read { s with r := g })

/-- One iteration of the driver loop (R220): open a block if none is open, then one instruction. -/
def driverStep (s : State) : Host.Outcome State Fault Refusal :=
  match s.em with
  | some _ => driveInstr s
  | none => andThen (openBlock s) driveInstr

/-- The driver for a budget of instructions, P_BUDGET; when it ends inside a block the block is finalized (R534, D44). -/
def driverRun : Nat → State → Host.Outcome State Fault Refusal
  | 0, s => closeBlock s
  | n + 1, s => andThen (driverStep s) (driverRun n)

/-- The guest-level run of the same budget (R224, R534). -/
def guestRun : Nat → State → Host.Outcome State Fault Refusal
  | 0, s => .next s
  | n + 1, s => andThen (stepGuest s) (guestRun n)

end Sys2Proof.Machine
end

