-- ==== Sys2Proof/Machine/Trace.lean ====
section
/-! DEFINITION. The driver's trace line and its counters (60_exceptions.md R530, R531), a host facility and "not a contract of the
core": functions of the state before an instruction, which no step reads. -/

namespace Sys2Proof.Machine

/-- `CYC = (cycle*3) mod 341` (R531). -/
def traceCyc (cycle : Nat) : Nat := cycle * 3 % 341

/-- `SL = ((341*242 + cycle*3) div 341) mod 262 - 1`; it may be -1 (R530, R531). -/
def traceSl (cycle : Nat) : Int := ((((341 * 242 + cycle * 3) / 341) % 262 : Nat) : Int) - 1

/-- One upper-case hexadecimal digit. -/
def hexDigit (n : Nat) : Char :=
  ['0', '1', '2', '3', '4', '5', '6', '7', '8', '9', 'A', 'B', 'C', 'D', 'E', 'F'].getD (n % 16) '0'

/-- Two hexadecimal digits, zero-padded. -/
def hex2 (b : Byte) : String := String.ofList [hexDigit (b.toNat / 16), hexDigit b.toNat]

/-- Four hexadecimal digits, zero-padded. -/
def hex4 (w : Word16) : String := hex2 (hi8 w) ++ hex2 (lo8 w)

/-- A number below 1000 right-aligned in three columns (R530). -/
def pad3 (n : Nat) : String :=
  (if n < 10 then "  " else if n < 100 then " " else "") ++ Nat.repr n

/-- The trace line of an instruction: PC, its opcode byte, A, X, Y, P, S (low bytes), CYC and SL (R530). -/
def traceLine (r : Regs) (opcode : Byte) : String :=
  hex4 r.pc ++ "  " ++ hex2 opcode ++ "  A:" ++ hex2 r.a ++ " X:" ++ hex2 (lo8 r.x) ++ " Y:" ++ hex2 (lo8 r.y)
    ++ " P:" ++ hex2 (packFlags r) ++ " SP:" ++ hex2 (lo8 r.s)
    ++ " CYC:" ++ pad3 (traceCyc r.cycle.toNat) ++ " SL:" ++ toString (traceSl r.cycle.toNat)

end Sys2Proof.Machine
end

