-- ==== Sys2Proof/Safety.lean ====
section
/-! DEFINITION. What counts as a safe state and a safe run, in the terms the statements use: the launch premise on the register
file (10_state.md R60), the canonical form of memory, masked values of the interpreter (40_ir.md R160), and the shape
of a block in progress. -/

namespace Sys2Proof.Machine

/-- The launch premise of R60: E = 1 implies M = 1, X_flag = 1 and S[15:8] = 0x01. (Flags hold 0 or 1 and slots values within
their widths by type.) -/
def Regs.emulationLock (r : Regs) : Bool := !r.e || (r.m && r.xf && hi8 r.s == 0x01#8)

/-- Both byte arrays are in canonical form. -/
def State.memoriesWf (s : State) : Bool := Memory.wf s.mem && Memory.wf s.aux

/-- A value of the interpreter: a width of 0 to 64 and a value below 2^width (R160). -/
def IrVal.masked (v : IrVal) : Bool := decide (v.wid ≤ 64) && decide (v.val.toNat < 2 ^ v.wid)

/-- Every evaluated node has a masked value (R160). -/
def State.valuesMasked (s : State) : Bool := s.vals.all IrVal.masked

/-- No more values than nodes: the interpreter is inside the arena (R160, R162). -/
def State.insideArena (s : State) : Bool := decide (s.vals.length ≤ s.arena.length)

/-- What every step keeps, from any state that has it. -/
def State.Inv (s : State) : Prop :=
  s.memoriesWf = true ∧ s.valuesMasked = true ∧ s.insideArena = true

/-- A run of `n` steps meets no fault and no refusal. -/
def safeRun : Nat → State → Bool
  | 0, _ => true
  | n + 1, s =>
    match step s with
    | .next t => safeRun n t
    | .fault _ => false
    | .refused _ => false

end Sys2Proof.Machine
end

