-- ==== Sys2Proof/Certificates/Slice0/Obligations.lean ====
section
/-! DEFINITION. The statements for the provers. Guest instructions: the state after an instruction is written out whole, so that
every field it does not name is the field before it. `s.fullMemory` says that P_MEM_BYTES covers the 24-bit space, as its
default does; what an access out of range does is stated apart. Statements with "(log <n>)" in their docstring rest on that
row of notes/assumptions. -/

open Sys2Proof Sys2Proof.Machine

/-! ### Encoding -/

/-- Decoding what the encoder writes gives the instruction back, for every well-formed instruction of both levels and every
decoding context (R100 to R107, R112, R120 to R124). -/
def Obligations.DecodeEncodeRoundTrip : Prop :=
  ∀ (c : Ctx) (i : Instr), i.wellFormed c = true → decode c (encode c i) = .ok i

/-- Guest bytes that decode are exactly the bytes the encoder writes for the instruction read, and it is well formed: every
guest word has one meaning (R100, R107, R112). -/
def Obligations.GuestBytesHaveOneMeaning : Prop :=
  ∀ (c : Ctx) (bytes : List Byte) (i : Instr), decode c (.guest bytes) = .ok i →
    encode c i = .guest bytes ∧ i.wellFormed c = true

/-- Every opcode byte, followed by as many bytes as the length rule asks for, decodes, and to one of the 38 unimplemented
instructions exactly when the opcode is unimplemented (R107, R114). -/
def Obligations.EveryOpcodeDecodesAtItsLength : Prop :=
  ∀ (c : Ctx) (op : Byte) (rest : List Byte), rest.length + 1 = instrLength c op →
    ∃ i, decode c (.guest (op :: rest)) = .ok i ∧
      (i ∈ unimplementedInstrs.map Prod.snd ↔ isUnimplemented op = true)

/-- A sample of words written from the opcode map and the tag table, not one of every family: implied, immediate, absolute,
direct, call, branch and push forms and two IR nodes (R112, R120, R123), and the lengths M and X_flag select (R102, R107). How
`decodeTableWord` tells a guest word from a node, and its context, are the model's own (log 15). -/
def Obligations.SampleWordsDecode : Prop :=
  decodeTableWord 8 0b11101010 = some .nop ∧
  decodeTableWord 16 0b01000010_10101001 = some (.ldaImm 0x0042#16) ∧
  decodeTableWord 24 0b00010010_00110100_10001101 = some (.staAbs 0x1234#16) ∧
  decodeTableWord 16 0b00010000_01000110 = some (.lsrDir 0x10#8) ∧
  decodeTableWord 24 0b11000010_00000000_00100000 = some (.jsrAbs 0xC200#16) ∧
  decodeTableWord 16 0b00000010_11110000 = some (.beq 0x02#8) ∧
  decodeTableWord 8 0b01001000 = some .pha ∧
  decodeTableWord 8 0b11000010 = some .rep ∧
  decodeTableWord 64 0x00000142_00_08_0000 = some (.irConst 8#8 0#8 0x142#32) ∧
  decodeTableWord 64 0xFFFF_0004_0003_0003 = some (.irAdd 3#16 4#16) ∧
  decode { m := false, xf := true, sr := .twoBytes } (.guest [0xA9#8, 0x34#8, 0x12#8]) = .ok (.ldaImm 0x1234#16) ∧
  decode { m := true, xf := false, sr := .oneByte } (.guest [0xA2#8, 0x34#8, 0x12#8]) = .ok (.ldxImm 0x1234#16) ∧
  decode { m := true, xf := true, sr := .oneByte } (.guest [0xA3#8, 0x05#8]) = .ok (.ldaSr 0x0005#16)

/-! ### The step -/

/-- With no IR node pending, a step is `exec` of the instruction that the bytes at `{PBR, PC}` decode to, on the state before
the fetches; nothing is added around it, since every meaning accounts for its own fetch (R17, R42, R223; log 4, log 5). -/
def Obligations.StepRunsDecodedInstruction : Prop :=
  ∀ (s : State) (i : Instr), s.pendingNode = none →
    let n := instrLength s.ctx (byteAt s.mem (mkAddr s.r.pbr s.r.pc))
    (∀ k, k < n → (mkAddr s.r.pbr (s.r.pc + BitVec.ofNat 16 k)).toNat < s.cfg.memBytes) →
    decode s.ctx (.guest (codeAt s.mem s.r.pbr s.r.pc n)) = .ok i →
    step s = exec i s

/-- With an IR node pending, a step evaluates it: `exec` of its op. An unused tag, and an unused slot that holds neither the
sentinel nor an older node's index, is StructuralIRError (R123, R142, R161, R162, R190; the form of the step is log 4, the
reasons' names and their order are log 21). That a node is evaluated although an unused slot holds an older node's index, where
R124 has the sentinel stand, is the model's choice (log 10). -/
def Obligations.StepEvaluatesPendingNode : Prop :=
  ∀ (s : State) (w : Node), s.pendingNode = some w →
    (∀ i, decodeNode w = .ok i → (∀ h ∈ unusedSlots w i, h = 0xFFFF#16 ∨ h.toNat < s.vals.length) → step s = exec i s) ∧
    (∀ i, ∀ h, decodeNode w = .ok i → h ∈ unusedSlots w i → h ≠ 0xFFFF#16 → s.vals.length ≤ h.toNat →
      step s = .fault (.structuralIr s.vals.length .badHandle s)) ∧
    (28 ≤ (Node.tag w).toNat → step s = .fault (.structuralIr s.vals.length .unusedTag s))

/-- No step is refused: every guest byte sequence and every IR node has a meaning or the fault the spec names (R114, R506,
R508). That StateRead and StateWrite run, where the spec lets a model refuse them, is the model's choice (log 9). -/
def Obligations.StepNeverRefuses : Prop :=
  ∀ (s : State) (why : Refusal), step s ≠ .refused why

/-- The lift-time read of the opcode byte comes first: out of range, it faults before anything else, with the state unchanged.
Then the operand bytes, in ascending order and wrapping in the bank: the first one out of range faults before any effect but the
fetches made, the opcode's and those below it, each of which advances PC and CYCLE by one (R17, R42, R100, R107, R223, R504,
R505, R507; that these advances are in the fault's state, and `ending` is false there, is log 7). An unimplemented opcode has no
operand byte here, since its length is 1. -/
def Obligations.OpcodeReadOutOfRangeFaultsFirst : Prop :=
  ∀ s : State, s.pendingNode = none →
    let at_ (k : Nat) : Addr := mkAddr s.r.pbr (s.r.pc + BitVec.ofNat 16 k)
    (s.cfg.memBytes ≤ (mkAddr s.r.pbr s.r.pc).toNat →
      step s = .fault (.outOfRangeMemory (mkAddr s.r.pbr s.r.pc) .read s)) ∧
    (∀ k, 0 < k → k < instrLength s.ctx (byteAt s.mem (mkAddr s.r.pbr s.r.pc)) →
      (∀ j, j < k → (at_ j).toNat < s.cfg.memBytes) → s.cfg.memBytes ≤ (at_ k).toNat →
      step s = .fault (.outOfRangeMemory (at_ k) .read { s with r := s.r.passed k k, ending := false }))

/-- The 38 unimplemented opcodes are those R113 lists; each decodes from its byte alone, and meeting one is
UnimplementedOpcode with the opcode and `{PBR, PC}`, the state unchanged (R113, R501). -/
def Obligations.UnimplementedOpcodesFaultWithNoEffect : Prop :=
  unimplementedInstrs.length = 38 ∧
  (∀ op : Byte, isUnimplemented op = true ↔ op ∈ unimplementedInstrs.map Prod.fst) ∧
  ∀ p ∈ unimplementedInstrs, ∀ s : State,
    decode s.ctx (.guest [p.1]) = .ok p.2 ∧
    exec p.2 s = .fault (.unimplementedOpcode p.1 (mkAddr s.r.pbr s.r.pc) s) ∧
    (s.pendingNode = none → (mkAddr s.r.pbr s.r.pc).toNat < s.cfg.memBytes →
      byteAt s.mem (mkAddr s.r.pbr s.r.pc) = p.1 →
      step s = .fault (.unimplementedOpcode p.1 (mkAddr s.r.pbr s.r.pc) s))

/-- The memory forms of every mode: the first access in bus order at or above P_MEM_BYTES faults before it happens, and what was
done before it keeps its effect. Reading forms: pointer bytes, then the operand. Stores: pointer bytes, then the low byte, then
the high byte, the low one written by then. Read-modify-writes: their reads (R504, R505; that cycles and fetches before the
access are in the fault's state is log 7). -/
def Obligations.DataAccessOutOfRangeFaults : Prop :=
  ∀ (m : Mode) (i : Instr) (s : State),
    let n := m.length s.cfg.srOffset
    let readFault (k : Nat) (a : Addr) : Host.Outcome State Fault Refusal :=
      .fault (.outOfRangeMemory a .read { s with r := s.r.passed n (n + k), ending := false })
    let readsAt (isStore : Bool) (w : Width) : Prop :=
      ∀ k a, s.firstOut (readTrail isStore s.mem s.r m w) = some (k, a) → exec i s = readFault k a
    (∀ op, AluOp.memForm op m = some i → readsAt false (widthA s.r)) ∧
    (bitForm m = some i → readsAt false (widthA s.r)) ∧
    (∀ reg, Idx.ldForm reg m = some i → readsAt false (widthX s.r)) ∧
    (∀ reg, Idx.cpForm reg m = some i → readsAt false (widthX s.r)) ∧
    (∀ op, RmwOp.memForm op m = some i → readsAt true (widthA s.r)) ∧
    (∀ op, StoreOp.form op m = some i →
      let ea := eaOf s.mem s.r m
      let q := n + eaCycles true s.mem s.r m
      (∀ k a, s.firstOut (ptrTrail s.r m) = some (k, a) → exec i s = readFault k a) ∧
      (s.firstOut (ptrTrail s.r m) = none → s.cfg.memBytes ≤ ea.addr.toNat →
        exec i s = .fault (.outOfRangeMemory ea.addr .write { s with r := s.r.passed n q, ending := false })) ∧
      (s.firstOut (ptrTrail s.r m) = none → ea.addr.toNat < s.cfg.memBytes → op.width s.r = .w16 →
        s.cfg.memBytes ≤ ea.hi.toNat →
        exec i s =
          .fault (.outOfRangeMemory ea.hi .write
            { s with
              r := s.r.passed n (q + 1)
              mem := Memory.write s.mem ea.addr.toNat (lo8 (op.value s.r))
              ending := false })))

/-! ### The accumulator family -/

/-- ORA, AND, EOR, LDA immediate: the result, where it goes, N and Z, PC and CYCLE; all else unchanged (R311 to R313, R317). -/
def Obligations.LogicAndLoadImmediate : Prop :=
  ∀ (v : Word16) (s : State),
    let w := widthA s.r
    let k := if s.r.m then 2 else 3
    let done (n : Nat) : Host.Outcome State Fault Refusal :=
      .next { s with r := resultNZ w n (resultA w n (s.r.passed k k)), ending := false }
    exec (.oraImm v) s = done (w.num (cat16 s.r.b s.r.a) ||| w.num v) ∧
    exec (.andImm v) s = done (w.num (cat16 s.r.b s.r.a) &&& w.num v) ∧
    exec (.eorImm v) s = done (w.num (cat16 s.r.b s.r.a) ^^^ w.num v) ∧
    exec (.ldaImm v) s = done (w.num v)

/-- ADC and SBC immediate in arithmetic: the sum, C as carry (not-borrow), V as signed overflow, decimal mode ignored (R314,
R315, R273 to R275, R50). -/
def Obligations.AddAndSubtractImmediate : Prop :=
  ∀ (v : Word16) (s : State),
    let w := widthA s.r
    let k := if s.r.m then 2 else 3
    let x := w.num (cat16 s.r.b s.r.a)
    exec (.adcImm v) s = .next { s with r := addEffect w x (w.num v) (s.r.passed k k), ending := false } ∧
    exec (.sbcImm v) s =
      .next { s with r := addEffect w x (2 ^ w.bits - 1 - w.num v) (s.r.passed k k), ending := false }

/-- CMP, CPX, CPY immediate: C is the unsigned comparison, N and Z those of the difference, V and the registers unchanged
(R316, R375, R376, R276, R277). -/
def Obligations.CompareImmediate : Prop :=
  ∀ (v : Word16) (s : State),
    let wA := widthA s.r
    let wX := widthX s.r
    let kA := if s.r.m then 2 else 3
    let kX := if s.r.xf then 2 else 3
    exec (.cmpImm v) s =
      .next { s with
        r := compareEffect wA (wA.num (cat16 s.r.b s.r.a)) (wA.num v) (s.r.passed kA kA), ending := false } ∧
    exec (.cpxImm v) s =
      .next { s with r := compareEffect wX (wX.num s.r.x) (wX.num v) (s.r.passed kX kX), ending := false } ∧
    exec (.cpyImm v) s =
      .next { s with r := compareEffect wX (wX.num s.r.y) (wX.num v) (s.r.passed kX kX), ending := false }

/-- Every memory form of ORA, AND, EOR, ADC, SBC, CMP, LDA: it completes, the operand is the one at the mode's effective
address, the registers change as `AluOp.effect` says, PC by the mode's length and CYCLE by its cycles; memory and all else
unchanged (R310, R319, R240 to R260, R295). -/
def Obligations.AccumulatorMemoryForms : Prop :=
  ∀ (op : AluOp) (m : Mode) (i : Instr) (s : State), op.memForm m = some i → s.fullMemory →
    let n := m.length s.cfg.srOffset
    let w := widthA s.r
    exec i s =
      .next { s with
        r := op.effect (operandAt s.mem (eaOf s.mem s.r m) w)
          (s.r.passed n (n + eaCycles false s.mem s.r m + w.bytes))
        ending := false }

/-- BIT: Z from the AND in every form, N and V from the operand's top two bits in the memory forms only (R347). -/
def Obligations.BitForms : Prop :=
  (∀ (v : Word16) (s : State),
    let w := widthA s.r
    let k := if s.r.m then 2 else 3
    exec (.bitImm v) s =
      .next { s with
        r := { s.r.passed k k with z := decide (w.num (cat16 s.r.b s.r.a) &&& w.num v = 0) }
        ending := false }) ∧
  (∀ (m : Mode) (i : Instr) (s : State), bitForm m = some i → s.fullMemory →
    let n := m.length s.cfg.srOffset
    let w := widthA s.r
    exec i s =
      .next { s with
        r := bitEffect (operandAt s.mem (eaOf s.mem s.r m) w)
          (s.r.passed n (n + eaCycles false s.mem s.r m + w.bytes))
        ending := false })

/-! ### Stores and read-modify-write -/

/-- STA, STX, STY, STZ in every mode: the value's low bytes go to the effective address, no register but PC and CYCLE changes,
and indexed modes always take their extra cycle (R318, R348, R373, R374, R296). -/
def Obligations.StoreForms : Prop :=
  ∀ (op : StoreOp) (m : Mode) (i : Instr) (s : State), op.form m = some i → s.fullMemory →
    let n := m.length s.cfg.srOffset
    let w := op.width s.r
    exec i s =
      .next { s with
        r := s.r.passed n (n + eaCycles true s.mem s.r m + w.bytes)
        mem := storedAt s.mem (eaOf s.mem s.r m) w (op.value s.r)
        ending := false }

/-- The bytes a store and a read-modify-write leave: the stored ones at the effective address the mode computes, the high byte
at `ea_hi`, and every other address reads as before (R80, R296, R294). -/
def Obligations.StoresTouchOnlyTheirBytes : Prop :=
  (∀ (op : StoreOp) (m : Mode) (i : Instr) (s t : State), op.form m = some i → s.fullMemory → exec i s = .next t →
    let ea := eaOf s.mem s.r m
    let w := op.width s.r
    byteAt t.mem ea.addr = lo8 (op.value s.r) ∧
    (w = .w16 → byteAt t.mem ea.hi = hi8 (op.value s.r)) ∧
    ∀ a, a ∉ storedBytes ea w → byteAt t.mem a = byteAt s.mem a) ∧
  (∀ (op : RmwOp) (m : Mode) (i : Instr) (s t : State), op.memForm m = some i → s.fullMemory → exec i s = .next t →
    let ea := eaOf s.mem s.r m
    let w := widthA s.r
    let result := (op.number w.bits (w.num (operandAt s.mem ea w)) s.r.c).1
    byteAt t.mem ea.addr = BitVec.ofNat 8 result ∧
    (w = .w16 → byteAt t.mem ea.hi = BitVec.ofNat 8 (result / 256)) ∧
    ∀ a, a ∉ storedBytes ea w → byteAt t.mem a = byteAt s.mem a)

/-- ASL, ROL, LSR, ROR, INC, DEC on the accumulator, in arithmetic: result, C, N, Z; B kept when M = 1; two cycles (R293, R340
to R346). -/
def Obligations.ReadModifyWriteAccumulator : Prop :=
  ∀ (op : RmwOp) (s : State),
    let w := widthA s.r
    let q := op.number w.bits (w.num (cat16 s.r.b s.r.a)) s.r.c
    exec op.accForm s =
      .next { s with r := { resultNZ w q.1 (resultA w q.1 (s.r.passed 1 2)) with c := q.2 }, ending := false }

/-- The same six operations on memory: read, one modify cycle, write back high byte first (R294, R340 to R346). -/
def Obligations.ReadModifyWriteMemory : Prop :=
  ∀ (op : RmwOp) (m : Mode) (i : Instr) (s : State), op.memForm m = some i → s.fullMemory →
    let n := m.length s.cfg.srOffset
    let w := widthA s.r
    let ea := eaOf s.mem s.r m
    let q := op.number w.bits (w.num (operandAt s.mem ea w)) s.r.c
    exec i s =
      .next { s with
        r := { resultNZ w q.1 (s.r.passed n (n + eaCycles true s.mem s.r m + 2 * w.bytes + 1)) with c := q.2 }
        mem := writtenBack s.mem ea w (BitVec.ofNat 16 q.1)
        ending := false }

/-! ### The index family -/

/-- LDX and LDY, immediate and from memory: the register takes the operand at the index width, its high byte kept when
X_flag = 1; N and Z at that width (R371, R372, R272, R286). -/
def Obligations.IndexLoads : Prop :=
  (∀ (v : Word16) (s : State),
    let w := widthX s.r
    let k := if s.r.xf then 2 else 3
    exec (.ldxImm v) s =
      .next { s with r := resultNZ w v.toNat (resultIdx .x w v.toNat (s.r.passed k k)), ending := false } ∧
    exec (.ldyImm v) s =
      .next { s with r := resultNZ w v.toNat (resultIdx .y w v.toNat (s.r.passed k k)), ending := false }) ∧
  (∀ (reg : Idx) (m : Mode) (i : Instr) (s : State), reg.ldForm m = some i → s.fullMemory →
    let n := m.length s.cfg.srOffset
    let w := widthX s.r
    let v := (operandAt s.mem (eaOf s.mem s.r m) w).toNat
    exec i s =
      .next { s with
        r := resultNZ w v (resultIdx reg w v (s.r.passed n (n + eaCycles false s.mem s.r m + w.bytes)))
        ending := false })

/-- CPX and CPY against memory: as the immediate forms, with the operand at the effective address (R375, R376). -/
def Obligations.IndexComparesWithMemory : Prop :=
  ∀ (reg : Idx) (m : Mode) (i : Instr) (s : State), reg.cpForm m = some i → s.fullMemory →
    let n := m.length s.cfg.srOffset
    let w := widthX s.r
    exec i s =
      .next { s with
        r := compareEffect w (w.num (reg.raw s.r)) (w.num (operandAt s.mem (eaOf s.mem s.r m) w))
          (s.r.passed n (n + eaCycles false s.mem s.r m + w.bytes))
        ending := false }

/-- INX, INY, DEX, DEY: one up or down at the index width, the carry never reaching a kept high byte; N and Z; two cycles
(R377 to R380). -/
def Obligations.IndexIncrementAndDecrement : Prop :=
  ∀ s : State,
    let w := widthX s.r
    let done (reg : Idx) (n : Nat) : Host.Outcome State Fault Refusal :=
      .next { s with r := resultNZ w n (resultIdx reg w n (s.r.passed 1 2)), ending := false }
    exec .inx s = done .x (w.num s.r.x + 1) ∧
    exec .iny s = done .y (w.num s.r.y + 1) ∧
    exec .dex s = done .x (w.num s.r.x + 65535) ∧
    exec .dey s = done .y (w.num s.r.y + 65535)

/-! ### Transfers, exchanges, flags -/

/-- TAX, TAY, TXA, TYA, TXY, TYX, TSX: the source at its own width, the destination and N, Z at the destination's (R401 to
R406, R408). -/
def Obligations.TransfersBetweenAccumulatorAndIndex : Prop :=
  ∀ s : State,
    let wA := widthA s.r
    let wX := widthX s.r
    let r := s.r.passed 1 2
    let toIdx (reg : Idx) (n : Nat) : Host.Outcome State Fault Refusal :=
      .next { s with r := resultNZ wX n (resultIdx reg wX n r), ending := false }
    let toA (n : Nat) : Host.Outcome State Fault Refusal :=
      .next { s with r := resultNZ wA n (resultA wA n r), ending := false }
    exec .tax s = toIdx .x (cat16 s.r.b s.r.a).toNat ∧
    exec .tay s = toIdx .y (cat16 s.r.b s.r.a).toNat ∧
    exec .txa s = toA (wX.num s.r.x) ∧
    exec .tya s = toA (wX.num s.r.y) ∧
    exec .txy s = toIdx .y (wX.num s.r.x) ∧
    exec .tyx s = toIdx .x (wX.num s.r.y) ∧
    exec .tsx s = toIdx .x s.r.s.toNat

/-- TXS and TCS write no flag and keep S in page 1 when E = 1; TSC, TCD, TDC move 16 bits whatever M, with N and Z at 16 bits
(R407, R409 to R412, R287). -/
def Obligations.TransfersOfStackAndDirectPage : Prop :=
  ∀ s : State,
    let r := s.r.passed 1 2
    let acc := (cat16 s.r.b s.r.a).toNat
    let toS (n : Nat) : Word16 := BitVec.ofNat 16 (if s.r.e then 256 + n % 256 else n)
    exec .txs s = .next { s with r := { r with s := toS ((widthX s.r).num s.r.x) }, ending := false } ∧
    exec .tcs s = .next { s with r := { r with s := toS acc }, ending := false } ∧
    exec .tsc s =
      .next { s with r := resultNZ .w16 s.r.s.toNat (resultA .w16 s.r.s.toNat r), ending := false } ∧
    exec .tcd s = .next { s with r := resultNZ .w16 acc { r with d := BitVec.ofNat 16 acc }, ending := false } ∧
    exec .tdc s = .next { s with r := resultNZ .w16 s.r.d.toNat (resultA .w16 s.r.d.toNat r), ending := false }

/-- XBA swaps the accumulator halves, N and Z from the new A, three cycles; XCE swaps C and E, and entering emulation sets M,
X_flag and the stack page, X and Y kept (R413, R414). -/
def Obligations.ExchangeInstructions : Prop :=
  ∀ s : State,
    exec .xba s =
      .next { s with
        r := resultNZ .w8 s.r.b.toNat { s.r.passed 1 3 with a := s.r.b, b := s.r.a }, ending := false } ∧
    exec .xce s =
      .next { s with
        r := { s.r.passed 1 2 with
          c := s.r.e
          e := s.r.c
          m := if s.r.c then true else s.r.m
          xf := if s.r.c then true else s.r.xf
          s := if s.r.c then BitVec.ofNat 16 (256 + s.r.s.toNat % 256) else s.r.s }
        ending := false }

/-- CLC, SEC, CLI, SEI, CLV, CLD, SED write their one flag, NOP none; one byte and two cycles each (R415 to R422). -/
def Obligations.FlagInstructionsAndNop : Prop :=
  ∀ (c : Ctx) (s : State),
    let r := s.r.passed 1 2
    let done (q : Regs) : Host.Outcome State Fault Refusal := .next { s with r := q, ending := false }
    exec .clc s = done { r with c := false } ∧ encode c .clc = .guest [0x18#8] ∧
    exec .sec s = done { r with c := true } ∧ encode c .sec = .guest [0x38#8] ∧
    exec .cli s = done { r with i := false } ∧ encode c .cli = .guest [0x58#8] ∧
    exec .sei s = done { r with i := true } ∧ encode c .sei = .guest [0x78#8] ∧
    exec .clv s = done { r with v := false } ∧ encode c .clv = .guest [0xB8#8] ∧
    exec .cld s = done { r with df := false } ∧ encode c .cld = .guest [0xD8#8] ∧
    exec .sed s = done { r with df := true } ∧ encode c .sed = .guest [0xF8#8] ∧
    exec .nop s = done r ∧ encode c .nop = .guest [0xEA#8]

/-- The status byte: its value on pack, with M and X as 1 when E is set, and what unpacking writes, M and X_flag only when E
is clear; packing then unpacking restores every flag in native mode (R280 to R282, P6). -/
def Obligations.ProcessorStatusByte : Prop :=
  (∀ r : Regs,
    (packFlags r).toNat =
      bit r.n * 128 + bit r.v * 64 + bit (if r.e then true else r.m) * 32 + bit (if r.e then true else r.xf) * 16 +
        bit r.df * 8 + bit r.i * 4 + bit r.z * 2 + bit r.c) ∧
  (∀ (p : Byte) (r : Regs),
    unpackFlags p r =
      { r with
        n := decide (p.toNat / 128 % 2 = 1), v := decide (p.toNat / 64 % 2 = 1)
        m := if r.e then r.m else decide (p.toNat / 32 % 2 = 1)
        xf := if r.e then r.xf else decide (p.toNat / 16 % 2 = 1)
        df := decide (p.toNat / 8 % 2 = 1), i := decide (p.toNat / 4 % 2 = 1)
        z := decide (p.toNat / 2 % 2 = 1), c := decide (p.toNat % 2 = 1) }) ∧
  (∀ r : Regs, r.e = false → unpackFlags (packFlags r) r = r)

/-! ### The stack -/

/-- Every push: the value's bytes at S downwards, high byte first when 16-bit, S stepped once a byte, no flag written (R289,
R291, R440, R441, R443, R445, R447, R449, R451, R452). -/
def Obligations.PushInstructions : Prop :=
  ∀ p ∈ pushForms, ∀ s : State, s.fullMemory →
    let w := p.2.1 s.r
    exec p.1 s =
      .next { s with
        r := { s.r.passed 1 (2 + w.bytes) with s := pushedS s.r.e s.r.s w.bytes }
        mem := pushedMem s.mem s.r.e s.r.s (pushOrder w (p.2.2 s.r))
        ending := false }

/-- The bytes a push leaves: the first at the old S, the second one step below it in the page or in bank 0; every other address
reads as before (R288, R289, R291). -/
def Obligations.PushesTouchOnlyTheirBytes : Prop :=
  ∀ p ∈ pushForms, ∀ s t : State, s.fullMemory → exec p.1 s = .next t →
    let w := p.2.1 s.r
    let v := p.2.2 s.r
    (w = .w8 → stackByte t.mem s.r.s = lo8 v) ∧
    (w = .w16 → stackByte t.mem s.r.s = hi8 v ∧ stackByte t.mem (pushedS s.r.e s.r.s 1) = lo8 v) ∧
    ∀ a, a ∉ pushedAddrs s.r.e s.r.s w.bytes → byteAt t.mem a = byteAt s.mem a

/-- Every pull: S steps before each byte, low byte first, then the register effect with N and Z (PLP: the flags); memory
unchanged (R290, R291, R440, R442, R444, R446, R448, R450, R453, R454). -/
def Obligations.PullInstructions : Prop :=
  ∀ p ∈ pullForms, ∀ s : State, s.fullMemory →
    let w := p.2.1 s.r
    exec p.1 s =
      .next { s with
        r := p.2.2 (pulledValue s.mem s.r.e s.r.s w)
          { s.r.passed 1 (3 + w.bytes) with s := pulledS s.r.e s.r.s w.bytes }
        ending := false }

/-- PHP then PLP gives back every register and flag, PC two bytes and CYCLE seven cycles on, from every state that meets the
launch premise (R60, R447, R448, P6). -/
def Obligations.PushThenPullStatusRestoresFlags : Prop :=
  ∀ s : State, s.fullMemory → s.r.emulationLock = true →
    ∃ t u, exec .php s = .next t ∧ exec .plp t = .next u ∧ u.r = s.r.passed 2 7

/-- After TXS, TCS, XCE, JSR, RTS, RTI and every push and pull, E = 1 implies that S lies in page 1, whatever the state before
(R38, R287, R288, R414, P5). -/
def Obligations.StackPageLock : Prop :=
  ∀ (i : Instr) (s t : State), writesStack i = true → exec i s = .next t → t.r.e = true → t.r.s.toNat / 256 = 1

/-! ### Control transfer -/

/-- JMP in its three forms: PC (and PBR for the long form) set, the block ends; PBR unchanged by the others; the pointer is in
bank 0, its increment wrapping in the page when E = 1 (R470 to R472, R254). -/
def Obligations.JumpInstructions : Prop :=
  (∀ (c : Ctx) (a : Word16) (s : State),
    encode c (.jmpAbs a) = .guest [0x4C#8, lo8 a, hi8 a] ∧
    exec (.jmpAbs a) s =
      .next { s with r := { s.r with pc := a, cycle := s.r.cycle + 3#64 }, ending := true }) ∧
  (∀ (c : Ctx) (a : Addr) (s : State),
    encode c (.jmpLong a) = .guest [0x5C#8, a.extractLsb' 0 8, a.extractLsb' 8 8, a.extractLsb' 16 8] ∧
    exec (.jmpLong a) s =
      .next { s with
        r := { s.r with
          pc := BitVec.ofNat 16 a.toNat, pbr := BitVec.ofNat 8 (a.toNat / 65536), cycle := s.r.cycle + 4#64 }
        ending := true }) ∧
  (∀ (c : Ctx) (a : Word16) (s : State), s.fullMemory →
    encode c (.jmpAbsInd a) = .guest [0x6C#8, lo8 a, hi8 a] ∧
    exec (.jmpAbsInd a) s =
      .next { s with
        r := { s.r with
          pc := cat16 (byteAt s.mem (mkAddr 0x00#8 (wrapAdd a 1#16 s.r.e))) (byteAt s.mem (mkAddr 0x00#8 a))
          cycle := s.r.cycle + 5#64 }
        ending := true })

/-- JSR pushes the offset of its last byte, high byte first, and jumps in the same bank; every byte outside the two pushed
reads as before (R473). -/
def Obligations.JumpToSubroutine : Prop :=
  ∀ (c : Ctx) (a : Word16) (s : State), s.fullMemory →
    let ret := s.r.pc + 2#16
    let mem := pushedMem s.mem s.r.e s.r.s [hi8 ret, lo8 ret]
    encode c (.jsrAbs a) = .guest [0x20#8, lo8 a, hi8 a] ∧
    exec (.jsrAbs a) s =
      .next { s with
        r := { s.r with pc := a, s := pushedS s.r.e s.r.s 2, cycle := s.r.cycle + 6#64 }
        mem := mem
        ending := true } ∧
    stackByte mem s.r.s = hi8 ret ∧ stackByte mem (pushedS s.r.e s.r.s 1) = lo8 ret ∧
    ∀ b, b ∉ pushedAddrs s.r.e s.r.s 2 → byteAt mem b = byteAt s.mem b

/-- RTS pulls PC low byte first and adds one; RTI pulls P, then PC with no increment, then PBR in native mode only; both end
the block (R474, R475). -/
def Obligations.ReturnInstructions : Prop :=
  ∀ s : State, s.fullMemory →
    let pulled (k : Nat) : Byte := pulledByte s.mem s.r.e s.r.s k
    exec .rts s =
      .next { s with
        r := { s.r with
          pc := cat16 (pulled 2) (pulled 1) + 1#16, s := pulledS s.r.e s.r.s 2, cycle := s.r.cycle + 6#64 }
        ending := true } ∧
    exec .rti s =
      .next { s with
        r := { unpackFlags (pulled 1) s.r with
          pc := cat16 (pulled 3) (pulled 2)
          pbr := if s.r.e then s.r.pbr else pulled 4
          s := pulledS s.r.e s.r.s (if s.r.e then 3 else 4)
          cycle := s.r.cycle + (if s.r.e then 6#64 else 7#64) }
        ending := true }

/-- RTS after JSR goes to the instruction after the JSR, S and every other register as before, PC wrapping in the bank (R473,
R474, R476). -/
def Obligations.CallThenReturnComesBack : Prop :=
  ∀ (a : Word16) (s : State), s.fullMemory → s.r.emulationLock = true →
    ∃ t u, exec (.jsrAbs a) s = .next t ∧ exec .rts t = .next u ∧ u.r = s.r.passed 3 12

/-- The nine branches: the condition each tests, the signed displacement, 2 + t + t*E*c cycles, the block's end whether or not
the branch is taken (R480 to R489). -/
def Obligations.BranchInstructions : Prop :=
  ∀ p ∈ branchForms, ∀ (c : Ctx) (d : Byte) (s : State),
    encode c (p.1 d) = .guest [p.2.1, d] ∧
    exec (p.1 d) s = .next { s with r := branchEffect (p.2.2 s.r) d s.r, ending := true }

/-! ### Whole-machine rules over the guest instructions -/

/-- Who writes which flag: each flag is unchanged by every instruction that R44's table does not name for it, M and X_flag also
by PLP and RTI when E = 1 (R44, R49 to R52). -/
def Obligations.FlagsHaveOnlyTheirWriters : Prop :=
  ∀ (i : Instr) (s t : State), isGuest i = true → exec i s = .next t →
    (keepsN i = true → t.r.n = s.r.n) ∧ (keepsZ i = true → t.r.z = s.r.z) ∧
    (writesV i = false → t.r.v = s.r.v) ∧ (writesC i = false → t.r.c = s.r.c) ∧
    (i ≠ .cld → i ≠ .sed → unpacksP i = false → t.r.df = s.r.df) ∧
    (i ≠ .cli → i ≠ .sei → unpacksP i = false → t.r.i = s.r.i) ∧
    (i ≠ .xce → (unpacksP i = false ∨ s.r.e = true) → t.r.m = s.r.m ∧ t.r.xf = s.r.xf) ∧
    (i ≠ .xce → t.r.e = s.r.e)

/-- Who writes which register: D by TCD and PLD, DBR by PLB, PBR by JMP al and by RTI in native mode, S by the instructions of
R38, A and B by the accumulator's writers, B only by XBA, TSC and TDC when M = 1; the high bytes of X and Y persist while
X_flag = 1 (R36 to R41). -/
def Obligations.RegistersHaveOnlyTheirWriters : Prop :=
  ∀ (i : Instr) (s t : State), isGuest i = true → exec i s = .next t →
    (i ≠ .tcd → i ≠ .pld → t.r.d = s.r.d) ∧
    (i ≠ .plb → t.r.dbr = s.r.dbr) ∧
    ((∀ a, i ≠ .jmpLong a) → (i ≠ .rti ∨ s.r.e = true) → t.r.pbr = s.r.pbr) ∧
    (writesStack i = false → t.r.s = s.r.s) ∧
    (writesAccumulator i = false → t.r.a = s.r.a ∧ t.r.b = s.r.b) ∧
    (s.r.m = true → i ≠ .xba → i ≠ .tsc → i ≠ .tdc → t.r.b = s.r.b) ∧
    (s.r.xf = true → hi8 t.r.x = hi8 s.r.x ∧ hi8 t.r.y = hi8 s.r.y)

/-- Only stores, read-modify-writes on memory, pushes and JSR write guest memory; every other guest instruction leaves all of it
as it was (R71, R76, R564). -/
def Obligations.OnlyStoringInstructionsWriteMemory : Prop :=
  ∀ (i : Instr) (s t : State), isGuest i = true → writesMemory i = false → exec i s = .next t → t.mem = s.mem

/-- The block-end rule: after a guest instruction `ending` is set exactly when it is a branch, jump, call or return (R490,
R214). -/
def Obligations.OnlyTransfersEndTheBlock : Prop :=
  ∀ (i : Instr) (s t : State), isGuest i = true → exec i s = .next t → t.ending = isTransfer i

/-- A guest instruction that transfers no control leaves PC one instruction length on, modulo 2^16, in the same bank (R42, R43,
R107). -/
def Obligations.FallThroughAdvancesPcByTheLength : Prop :=
  ∀ (i : Instr) (s t : State), isGuest i = true → isTransfer i = false → exec i s = .next t →
    t.r.pc = s.r.pc + BitVec.ofNat 16 (guestLength s.ctx i) ∧ t.r.pbr = s.r.pbr

/-- A guest instruction touches neither the parameters, nor the state namespace, nor the hidden state of a block except `ending`,
which OnlyTransfersEndTheBlock is about (R11, R57, R181; log 3, log 17). -/
def Obligations.GuestInstructionsKeepTheBlockState : Prop :=
  ∀ (i : Instr) (s t : State), isGuest i = true → exec i s = .next t →
    t.cfg = s.cfg ∧ t.aux = s.aux ∧ t.arena = s.arena ∧ t.vals = s.vals ∧ t.em = s.em

/-! ### Invariants -/

/-- Every step of the machine, guest instruction or IR node, keeps both byte arrays canonical, every evaluated node's value
masked to a width of 0 to 64, and no more values than nodes (R160 to R162; the canonical form is the model's own, log 2). -/
def Obligations.StepKeepsInvariant : Prop :=
  ∀ s t : State, s.Inv → step s = .next t → t.Inv

/-- The reset state has the invariant and the launch premise (R60, R552; log 1). -/
def Obligations.ResetMeetsInvariant : Prop :=
  State.reset.Inv ∧ State.reset.r.emulationLock = true

/-- The launch premise is kept by every guest instruction the machine steps: in emulation mode the widths stay 8 bits and the
stack stays in page 1 (R49, R52, R60, R515). -/
def Obligations.GuestStepKeepsEmulationLock : Prop :=
  ∀ s t : State, s.pendingNode = none → s.r.emulationLock = true → step s = .next t → t.r.emulationLock = true

/-! ### The IR ops -/

/-- Const masks its sign- or zero-extended value to its width; another width is StructuralIRError; Const48 always is (R163, R164;
the reasons' names are log 21). -/
def Obligations.IrConstants : Prop :=
  (∀ (numBits isSigned : Byte) (value : BitVec 32) (s : State),
    (constWidthOk numBits = true →
      exec (.irConst numBits isSigned value) s =
        .next (s.push
          { val := BitVec.ofNat 64
              ((if isSigned = 0#8 then value.toNat else (value.toInt % 2 ^ 64).toNat) % 2 ^ numBits.toNat)
            wid := numBits.toNat })) ∧
    (constWidthOk numBits = false →
      exec (.irConst numBits isSigned value) s = .fault (.structuralIr s.vals.length .badWidth s))) ∧
  (∀ (imm48 : BitVec 48) (s : State),
    exec (.irConst48 imm48) s = .fault (.structuralIr s.vals.length .reservedConst48 s))

/-- Not, Add, Sub, And, Or, Xor: the first operand's width, the value modulo 2^w, a wider second operand truncated; nothing else
changes (R165 to R170). -/
def Obligations.IrArithmeticAndLogic : Prop :=
  ∀ (a b : Handle) (s : State) (x y : IrVal), s.vals[a.toNat]? = some x → s.vals[b.toNat]? = some y →
    x.masked = true →
    let w := x.wid
    let done (n : Nat) : Host.Outcome State Fault Refusal := .next (s.push { val := BitVec.ofNat 64 (n % 2 ^ w), wid := w })
    exec (.irNot a) s = done (2 ^ w - 1 - x.val.toNat) ∧
    exec (.irAdd a b) s = done (x.val.toNat + y.val.toNat) ∧
    exec (.irSub a b) s = done (((x.val.toNat : Int) - (y.val.toNat : Int)) % (2 ^ w : Int)).toNat ∧
    exec (.irAnd a b) s = done (x.val.toNat &&& y.val.toNat) ∧
    exec (.irOr a b) s = done (x.val.toNat ||| y.val.toNat) ∧
    exec (.irXor a b) s = done (x.val.toNat ^^^ y.val.toNat)

/-- ShiftLeft widens, ShiftRight narrows, Cat joins with the first operand high, Extract takes a field, Zext widens; each with
its width error (R171 to R175, R190; which reason each error gives is log 21). -/
def Obligations.IrShiftsAndFields : Prop :=
  ∀ (a b k l : Handle) (s : State) (x y : IrVal) (n q : Nat), s.vals[a.toNat]? = some x → s.vals[b.toNat]? = some y →
    x.masked = true → y.masked = true → s.constIs k n → s.constIs l q →
    let done (w v : Nat) : Host.Outcome State Fault Refusal := .next (s.push { val := BitVec.ofNat 64 v, wid := w })
    let bad (why : IrReason) : Host.Outcome State Fault Refusal := .fault (.structuralIr s.vals.length why s)
    exec (.irShiftLeft a k) s = (if x.wid + n ≤ 64 then done (x.wid + n) (x.val.toNat * 2 ^ n) else bad .badWidth) ∧
    exec (.irShiftRight a k) s = (if n ≤ x.wid then done (x.wid - n) (x.val.toNat / 2 ^ n) else bad .badRange) ∧
    exec (.irCat a b) s =
      (if x.wid + y.wid ≤ 64 then done (x.wid + y.wid) (x.val.toNat * 2 ^ y.wid + y.val.toNat) else bad .badWidth) ∧
    exec (.irExtract a k l) s =
      (if n + q ≤ x.wid then done q (x.val.toNat / 2 ^ n % 2 ^ q) else bad .badRange) ∧
    exec (.irZext a k) s =
      (if n < x.wid then bad .badRange else if 64 < n then bad .badWidth else done n x.val.toNat)

/-- Eq and Neq give one bit whatever the operands' widths; Ternary gives the selected operand, value and width; MemState of bus
0 or 1 and a 1-bit predicate gives the empty value, another bus or another width of predicate StructuralIRError; Assert of
equal values gives the empty value and of different ones AssertFailure with both (R176 to R179, R184, R502; the address
AssertFailure holds is log 8, the reasons' names are log 21, the predicate's width is log 16). -/
def Obligations.IrComparesSelectsAndChecks : Prop :=
  ∀ (c a b k : Handle) (s : State) (q x y : IrVal) (n : Nat), s.vals[c.toNat]? = some q → s.vals[a.toNat]? = some x →
    s.vals[b.toNat]? = some y → s.constIs k n →
    exec (.irEq a b) s = .next (s.push { val := if x.val = y.val then 1#64 else 0#64, wid := 1 }) ∧
    exec (.irNeq a b) s = .next (s.push { val := if x.val = y.val then 0#64 else 1#64, wid := 1 }) ∧
    exec (.irTernary c a b) s = .next (s.push (if q.val = 0#64 then y else x)) ∧
    exec (.irMemState k a c) s =
      (if 1 < n then .fault (.structuralIr s.vals.length .badBus s)
       else if q.wid = 1 then .next (s.push { val := 0#64, wid := 0 })
       else .fault (.structuralIr s.vals.length .badWidth s)) ∧
    (x.val = y.val → exec (.irAssert a b) s = .next (s.push { val := 0#64, wid := 0 })) ∧
    (x.val ≠ y.val → exec (.irAssert a b) s = .fault (.assertFailure (loadedFrom s a) y.val x.val s))

/-- LoadN: 0 with no access when the predicate is 0; else the slot's value on bus 0, StructuralIRError above slot 18; else N/8
bytes little-endian on bus 1; width N, and neither registers nor memory change (R180, R185, R187 to R189; that the first
argument must be a MemState node and any predicate but 0 is alive is log 16, the reason's name log 21). -/
def Obligations.IrLoads : Prop :=
  ∀ p ∈ loadForm, ∀ (ms addr : Handle) (s : State) (x : IrVal), s.vals[addr.toNat]? = some x →
    let n := p.1
    let done (v : Nat) : Host.Outcome State Fault Refusal :=
      .next (s.push { val := BitVec.ofNat 64 (v % 2 ^ (8 * n)), wid := 8 * n })
    (∀ bus, s.memStateIs ms bus false → exec (p.2 ms addr) s = done 0) ∧
    (∀ v, s.memStateIs ms 0 true → readSlot s.r x.val.toNat = some v → exec (p.2 ms addr) s = done v) ∧
    (s.memStateIs ms 0 true → 18 < x.val.toNat →
      exec (p.2 ms addr) s = .fault (.structuralIr s.vals.length .badRegister s)) ∧
    (s.memStateIs ms 1 true → s.fullMemory →
      exec (p.2 ms addr) s = done (littleEndian s.mem (BitVec.ofNat 24 x.val.toNat) n))

/-- StoreN: no effect when the predicate is 0; else one slot masked to its width on bus 0, StructuralIRError above slot 18; else
N/8 bytes little-endian on bus 1; its value is the stored one (R183, R186 to R189; the MemState argument is log 16, the
reason's name log 21). -/
def Obligations.IrStores : Prop :=
  ∀ p ∈ storeForm, ∀ (ms addr value : Handle) (s : State) (x v : IrVal), s.vals[addr.toNat]? = some x →
    s.vals[value.toNat]? = some v →
    let n := p.1
    let out : IrVal := { val := BitVec.ofNat 64 (v.val.toNat % 2 ^ (8 * n)), wid := 8 * n }
    (∀ bus, s.memStateIs ms bus false → exec (p.2 ms addr value) s = .next (s.push out)) ∧
    (∀ r, s.memStateIs ms 0 true → writeSlot s.r x.val.toNat v.val.toNat = some r →
      exec (p.2 ms addr value) s = .next ({ s with r := r }.push out)) ∧
    (s.memStateIs ms 0 true → 18 < x.val.toNat →
      exec (p.2 ms addr value) s = .fault (.structuralIr s.vals.length .badRegister s)) ∧
    (s.memStateIs ms 1 true → s.fullMemory →
      exec (p.2 ms addr value) s =
        .next ({ s with mem := storedLittle s.mem (BitVec.ofNat 24 x.val.toNat) v.val.toNat n }.push out))

/-- On bus 1, a StoreN node and then a LoadN node of the same place: both complete, the load gives the stored value modulo 2^N at
width N, each byte of it lies little-endian at its address modulo 2^24, and no other byte changes (R180, R183, R187; the
MemState argument is log 16). -/
def Obligations.WideAccessesRoundTrip : Prop :=
  ∀ p ∈ storeForm.zip loadForm, ∀ (ms addr value : Handle) (s : State) (x v : IrVal), s.fullMemory →
    s.memStateIs ms 1 true → s.vals[addr.toNat]? = some x → s.vals[value.toNat]? = some v →
    let n := p.1.1
    let a : Addr := BitVec.ofNat 24 x.val.toNat
    ∃ t, exec (p.1.2 ms addr value) s = .next t ∧
      exec (p.2.2 ms addr) t =
        .next (t.push { val := BitVec.ofNat 64 (v.val.toNat % 2 ^ (8 * n)), wid := 8 * n }) ∧
      (∀ k, k < n → byteAt t.mem (a + BitVec.ofNat 24 k) = BitVec.ofNat 8 (v.val.toNat / 256 ^ k)) ∧
      ∀ b, (∀ k, k < n → b ≠ a + BitVec.ofNat 24 k) → byteAt t.mem b = byteAt s.mem b

/-- The register bus by ordinal: writing a slot masks to its width and reading it gives that value back, every other slot reads
as before, and there are 19 slots (R30, R32, R185, R186). -/
def Obligations.RegisterBusSlots : Prop :=
  (∀ (r : Regs) (k v : Nat), k ≤ 18 → ∃ q, writeSlot r k v = some q ∧
    readSlot q k = some (v % 2 ^ ([8, 8, 16, 16, 16, 16, 16, 8, 8, 1, 1, 1, 1, 1, 1, 1, 1, 1, 64].getD k 0)) ∧
    ∀ j, j ≠ k → readSlot q j = readSlot r j) ∧
  (∀ (r : Regs) (k v : Nat), 18 < k → writeSlot r k v = none ∧ readSlot r k = none)

/-- StateRead and StateWrite: up to eight bytes, little-endian, of the state namespace; guest memory and registers unchanged; a
read after the write of the same place gives the value written (R181, R182; log 9). -/
def Obligations.IrStateSpace : Prop :=
  ∀ (offset size value : Handle) (s : State) (o v : IrVal) (n : Nat), s.vals[offset.toNat]? = some o →
    s.vals[value.toNat]? = some v → s.constIs size n → n ≤ 8 →
    let written := auxStored s.aux o.val.toNat v.val.toNat n
    exec (.irStateRead offset size) s =
      .next (s.push { val := BitVec.ofNat 64 (auxLittle s.aux o.val.toNat n), wid := 8 * n }) ∧
    exec (.irStateWrite offset size value) s =
      .next ({ s with aux := written }.push
        { val := BitVec.ofNat 64 (v.val.toNat % 2 ^ (8 * n)), wid := 8 * n }) ∧
    auxLittle written o.val.toNat n = v.val.toNat % 2 ^ (8 * n)

/-- An argument handle at or beyond the node being evaluated is StructuralIRError, whatever the op, and the node has no effect:
the fault holds the state before it (R142, R190, R503, R505). -/
def Obligations.DanglingHandleIsStructuralError : Prop :=
  ∀ (i : Instr) (s : State) (h : Handle), h ∈ irHandles i → s.vals[h.toNat]? = none →
    ∃ why, exec i s = .fault (.structuralIr s.vals.length why s)

/-- Evaluating a node appends one value and changes nothing else, but for the stores (registers or guest memory) and StateWrite
(the state namespace); CYCLE is not advanced by a node that stores to guest memory (R160 to R162, R188, R189). -/
def Obligations.IrNodeFrame : Prop :=
  ∀ (i : Instr) (s t : State), isGuest i = false → exec i s = .next t →
    (∃ v, t.vals = s.vals ++ [v]) ∧ t.cfg = s.cfg ∧ t.arena = s.arena ∧ t.em = s.em ∧ t.ending = s.ending ∧
    (irStores i = false → t.r = s.r ∧ t.mem = s.mem) ∧ (t.r = s.r ∨ t.mem = s.mem) ∧
    ((∀ o n v, i ≠ .irStateWrite o n v) → t.aux = s.aux)

/-! ### The emitter -/

/-- Within one block a constant asked for again is the same node, as long as the memo table was only added to in between: no node
is appended and the handle is the first one (R203, P2). That the emitter's operations only add to the memo table is a premise
here. -/
def Obligations.ConstantsAreShared : Prop :=
  ∀ (w value : Nat) (b b' c : Build) (h : V), constV w value b = .ok h b' →
    (∃ later, c.em.memo = b'.em.memo ++ later) → constV w value c = .ok h c

/-- Appending a node: the arena grows by its encoding, its handle is the arena's old length, the older nodes stay as they are,
and a node with an argument that names no older node is refused, so that arenas are acyclic (R12, R140 to R142, P1; the
reason's name is log 21, the bound 65535 beside P_ARENA_CAP log 23). -/
def Obligations.ArenaIsAppendOnlyAndAcyclic : Prop :=
  (∀ (i : Instr) (b b' : Build) (h : Handle), append i b = .ok h b' →
    (∃ w, encode launchCtx i = .node w ∧ b' = { b with arena := b.arena ++ [w] }) ∧
    h.toNat = b.arena.length ∧ b.arena.length < b.cfg.arenaCap ∧ ∀ a ∈ irHandles i, a.toNat < h.toNat) ∧
  (∀ (i : Instr) (b : Build), b.arena.length < b.cfg.arenaCap → b.arena.length < 65535 →
    (∃ a ∈ irHandles i, b.arena.length ≤ a.toNat) → append i b = .error .badHandle b)

/-! ### The other accesses out of range -/

/-- Stack, pointer and node accesses: the first one in bus order at or above P_MEM_BYTES faults before it happens, what was done
before it kept. Pushes and JSR: S and the bytes pushed before. Pulls, RTS, RTI: S stepped for the read that faults, what was
pulled before it kept where its rule writes it at once (PLA's A, RTI's flags). JMP (a): its two pointer bytes. LoadN and StoreN
on bus 1: the bytes from the address upwards (R187, R289, R290, R442, R472 to R475, R504, R505; that a pull's S step is in the
fault's state is log 7, the check byte by byte log 22, the MemState argument log 16). -/
def Obligations.StackPointerAndNodeAccessesOutOfRangeFault : Prop :=
  ∀ (s : State),
    let pushAddr (k : Nat) : Addr := mkAddr 0x00#8 (pushedS s.r.e s.r.s k)
    let pullAddr (k : Nat) : Addr := mkAddr 0x00#8 (pulledS s.r.e s.r.s (k + 1))
    let pushStops (k : Nat) : Prop := (∀ j, j < k → (pushAddr j).toNat < s.cfg.memBytes) ∧ s.cfg.memBytes ≤ (pushAddr k).toNat
    let pullStops (k : Nat) : Prop := (∀ j, j < k → (pullAddr j).toNat < s.cfg.memBytes) ∧ s.cfg.memBytes ≤ (pullAddr k).toNat
    let pushFault (n k : Nat) (bytes : List Byte) : Host.Outcome State Fault Refusal :=
      .fault (.outOfRangeMemory (pushAddr k) .write
        { s with
          r := { s.r.passed n (n + 1 + k) with s := pushedS s.r.e s.r.s k }
          mem := pushedMem s.mem s.r.e s.r.s (bytes.take k)
          ending := false })
    let pullFault (k : Nat) (r : Regs) : Host.Outcome State Fault Refusal :=
      .fault (.outOfRangeMemory (pullAddr k) .read
        { s with r := { r.passed 1 (3 + k) with s := pulledS s.r.e s.r.s (k + 1) }, ending := false })
    let first : Byte := pulledByte s.mem s.r.e s.r.s 1
    (∀ p ∈ pushForms, ∀ k, k < (p.2.1 s.r).bytes → pushStops k →
      exec p.1 s = pushFault 1 k (pushOrder (p.2.1 s.r) (p.2.2 s.r))) ∧
    (∀ a k, k < 2 → pushStops k →
      exec (.jsrAbs a) s = pushFault 3 k [hi8 (s.r.pc + 2#16), lo8 (s.r.pc + 2#16)]) ∧
    (∀ p ∈ pullForms, ∀ k, k < (p.2.1 s.r).bytes → pullStops k →
      exec p.1 s = pullFault k (if p.1 = .pla ∧ k = 1 then { s.r with a := first } else s.r)) ∧
    (∀ k, k < 2 → pullStops k → exec .rts s = pullFault k s.r) ∧
    (∀ k, k < (if s.r.e then 3 else 4) → pullStops k →
      exec .rti s = pullFault k (if k = 0 then s.r else unpackFlags first s.r)) ∧
    (∀ a k b, s.firstOut [(0, mkAddr 0x00#8 a), (1, mkAddr 0x00#8 (wrapAdd a 1#16 s.r.e))] = some (k, b) →
      exec (.jmpAbsInd a) s =
        .fault (.outOfRangeMemory b .read { s with r := s.r.passed 3 (3 + k), ending := false })) ∧
    (∀ (ms addr value : Handle) (x v : IrVal) (k : Nat), s.memStateIs ms 1 true → s.vals[addr.toNat]? = some x →
      s.vals[value.toNat]? = some v →
      let at_ (j : Nat) : Addr := BitVec.ofNat 24 x.val.toNat + BitVec.ofNat 24 j
      (∀ j, j < k → (at_ j).toNat < s.cfg.memBytes) → s.cfg.memBytes ≤ (at_ k).toNat →
      (∀ p ∈ loadForm, k < p.1 → exec (p.2 ms addr) s = .fault (.outOfRangeMemory (at_ k) .read s)) ∧
      ∀ p ∈ storeForm, k < p.1 →
        exec (p.2 ms addr value) s =
          .fault (.outOfRangeMemory (at_ k) .write
            { s with mem := storedLittle s.mem (BitVec.ofNat 24 x.val.toNat) v.val.toNat k }))
end

