-- ==== Sys2Proof/Laws/Bits.lean ====
section
/-! SUPPORT. The halves of a 16-bit value, on bit vectors and on numbers. -/

namespace Sys2Proof.Machine

theorem lo8_toNat (v : Word16) : (lo8 v).toNat = v.toNat % 256 := by
  simp [lo8, BitVec.extractLsb'_toNat]

theorem hi8_toNat (v : Word16) : (hi8 v).toNat = v.toNat / 256 := by
  have := v.isLt
  simp only [hi8, BitVec.extractLsb'_toNat, Nat.shiftRight_eq_div_pow, Nat.reducePow]
  omega

theorem cat16_toNat (hi lo : Byte) : (cat16 hi lo).toNat = hi.toNat * 256 + lo.toNat := by
  have h1 := lo.isLt
  simp only [cat16, BitVec.toNat_append, Nat.shiftLeft_eq]
  rw [Nat.mul_comm, ← Nat.two_pow_add_eq_or_of_lt h1, Nat.mul_comm]

theorem zext16_toNat (v : Byte) : (zext16 v).toNat = v.toNat := by
  have := v.isLt
  simp only [zext16, BitVec.toNat_setWidth]
  omega

theorem mkAddr_toNat (bank : Byte) (off : Word16) : (mkAddr bank off).toNat = bank.toNat * 65536 + off.toNat := by
  have h1 := off.isLt
  simp only [mkAddr, BitVec.toNat_append, Nat.shiftLeft_eq]
  rw [Nat.mul_comm, ← Nat.two_pow_add_eq_or_of_lt h1, Nat.mul_comm]

@[simp] theorem lo8_cat16 (hi lo : Byte) : lo8 (cat16 hi lo) = lo := by
  apply BitVec.eq_of_toNat_eq
  have := lo.isLt
  rw [lo8_toNat, cat16_toNat]
  omega

@[simp] theorem hi8_cat16 (hi lo : Byte) : hi8 (cat16 hi lo) = hi := by
  apply BitVec.eq_of_toNat_eq
  have := lo.isLt
  rw [hi8_toNat, cat16_toNat]
  omega

@[simp] theorem cat16_halves (v : Word16) : cat16 (hi8 v) (lo8 v) = v := by
  apply BitVec.eq_of_toNat_eq
  rw [cat16_toNat, hi8_toNat, lo8_toNat]
  omega

@[simp] theorem lo8_zext16 (v : Byte) : lo8 (zext16 v) = v := by
  apply BitVec.eq_of_toNat_eq
  have := v.isLt
  rw [lo8_toNat, zext16_toNat]
  omega

@[simp] theorem hi8_zext16 (v : Byte) : hi8 (zext16 v) = 0#8 := by
  apply BitVec.eq_of_toNat_eq
  have := v.isLt
  rw [hi8_toNat, zext16_toNat]
  simp only [BitVec.toNat_ofNat]
  omega

end Sys2Proof.Machine
end

