-- ==== Sys2Proof/Laws/Memory.lean ====
section
/-! SUPPORT. The byte array: reading after writing, and the canonical form every operation keeps. -/

namespace Sys2Proof.Machine

@[simp] theorem Memory.read_nil (a : Nat) : Memory.read [] a = 0#8 := rfl

theorem Memory.read_insert (m : Memory) (a k : Nat) (v : Byte) :
    Memory.read (Memory.insert m a v) k = if a = k then v else Memory.read m k := by
  induction m with
  | nil => simp [Memory.insert, Memory.read]
  | cons p rest ih =>
    obtain ⟨q, b⟩ := p
    simp only [Memory.insert]
    split
    · simp only [Memory.read]
    · split
      · subst_vars
        simp only [Memory.read]
        split <;> rfl
      · simp only [Memory.read, ih]
        split
        · rw [if_neg (by omega)]
        · rfl

theorem Memory.read_erase (m : Memory) (a k : Nat) :
    Memory.read (Memory.erase m a) k = if a = k then 0#8 else Memory.read m k := by
  induction m with
  | nil => simp [Memory.erase]
  | cons p rest ih =>
    obtain ⟨q, b⟩ := p
    simp only [Memory.erase]
    split
    · subst_vars
      rw [ih]
      simp only [Memory.read]
      split <;> simp_all
    · simp only [Memory.read, ih]
      split
      · rw [if_neg (by omega)]
      · rfl

/-- Reading after a write: the written byte there, the old byte elsewhere. -/
theorem Memory.read_write (m : Memory) (a k : Nat) (v : Byte) :
    Memory.read (Memory.write m a v) k = if a = k then v else Memory.read m k := by
  unfold Memory.write
  split
  · rename_i h
    rw [Memory.read_erase, h]
  · exact Memory.read_insert m a k v

@[simp] theorem Memory.read_write_same (m : Memory) (a : Nat) (v : Byte) :
    Memory.read (Memory.write m a v) a = v := by simp [Memory.read_write]

theorem Memory.read_write_other (m : Memory) {a k : Nat} (v : Byte) (h : a ≠ k) :
    Memory.read (Memory.write m a v) k = Memory.read m k := by simp [Memory.read_write, h]

/-! ### The canonical form -/

/-- Does an optional lower bound lie below an address? -/
def below (low : Option Nat) (a : Nat) : Bool :=
  match low with
  | none => true
  | some l => decide (l < a)

theorem Memory.wfFrom_cons (low : Option Nat) (k : Nat) (b : Byte) (rest : Memory) :
    Memory.wfFrom low ((k, b) :: rest) = (below low k && (b != 0#8) && Memory.wfFrom (some k) rest) := rfl

theorem below_trans {low : Option Nat} {a b : Nat} (h : below low a = true) (hab : a < b) : below low b = true := by
  cases low with
  | none => rfl
  | some l => simp only [below, decide_eq_true_eq] at *; omega

theorem Memory.wfFrom_weaken {m : Memory} {low low' : Option Nat}
    (hb : ∀ k, below low k = true → below low' k = true) (h : Memory.wfFrom low m = true) :
    Memory.wfFrom low' m = true := by
  cases m with
  | nil => rfl
  | cons p rest =>
    obtain ⟨q, b⟩ := p
    simp only [Memory.wfFrom_cons, Bool.and_eq_true] at *
    exact ⟨⟨hb _ h.1.1, h.1.2⟩, h.2⟩

theorem Memory.wfFrom_insert {m : Memory} {low : Option Nat} {a : Nat} {v : Byte} (hm : Memory.wfFrom low m = true)
    (hl : below low a = true) (hv : v ≠ 0#8) : Memory.wfFrom low (Memory.insert m a v) = true := by
  induction m generalizing low with
  | nil => simp [Memory.insert, Memory.wfFrom_cons, Memory.wfFrom, hl, hv]
  | cons p rest ih =>
    obtain ⟨q, b⟩ := p
    simp only [Memory.wfFrom_cons, Bool.and_eq_true] at hm
    simp only [Memory.insert]
    split
    · rename_i haq
      have haq' : below (some a) q = true := by simp [below, haq]
      simp [Memory.wfFrom_cons, hl, hv, haq', hm.1.2, hm.2]
    · split
      · subst_vars
        simp [Memory.wfFrom_cons, hl, hv, hm.2]
      · simp only [Memory.wfFrom_cons, Bool.and_eq_true]
        refine ⟨hm.1, ih hm.2 ?_⟩
        simp only [below, decide_eq_true_eq]
        omega

theorem Memory.wfFrom_erase {m : Memory} {low : Option Nat} (a : Nat) (hm : Memory.wfFrom low m = true) :
    Memory.wfFrom low (Memory.erase m a) = true := by
  induction m generalizing low with
  | nil => rfl
  | cons p rest ih =>
    obtain ⟨q, b⟩ := p
    simp only [Memory.wfFrom_cons, Bool.and_eq_true] at hm
    simp only [Memory.erase]
    split
    · refine Memory.wfFrom_weaken (fun k hk => ?_) (ih hm.2)
      simp only [below, decide_eq_true_eq] at hk
      exact below_trans hm.1.1 hk
    · simp only [Memory.wfFrom_cons, Bool.and_eq_true]
      exact ⟨hm.1, ih hm.2⟩

/-- A write keeps the canonical form. -/
theorem Memory.wf_write {m : Memory} (a : Nat) (v : Byte) (hm : Memory.wf m = true) :
    Memory.wf (Memory.write m a v) = true := by
  unfold Memory.wf Memory.write at *
  split
  · exact Memory.wfFrom_erase a hm
  · rename_i h
    exact Memory.wfFrom_insert hm rfl h

theorem Memory.wf_nil : Memory.wf [] = true := rfl

end Sys2Proof.Machine
end

