-- ==== Sys2Proof/Laws/Boot.lean ====
section
/-! SUPPORT. Writing from outside the machine keeps the canonical form of memory: ROM ingestion (R563) and placed code. -/

namespace Sys2Proof.Machine

theorem Memory.wf_writeFrom {m : Memory} (a : Nat) (bytes : List Byte) (h : Memory.wf m = true) :
    Memory.wf (writeFrom a bytes m) = true := by
  induction bytes generalizing a m with
  | nil => exact h
  | cons b rest ih => exact ih (a + 1) (Memory.wf_write a b h)

theorem Memory.wf_writeCode {m : Memory} (bank : Byte) (off : Word16) (bytes : List Byte) (h : Memory.wf m = true) :
    Memory.wf (writeCode bank off bytes m) = true := by
  induction bytes generalizing off m with
  | nil => exact h
  | cons b rest ih => exact ih (off + 1#16) (Memory.wf_write _ b h)

/-- The launch memory the drivers build over a canonical P_INIT_MEM is canonical. -/
theorem Memory.wf_ingestRom {initMem m : Memory} {file : List Byte} (h : Memory.wf initMem = true)
    (e : ingestRom initMem file = some m) : Memory.wf m = true := by
  unfold ingestRom at e
  split at e
  · cases e
  · cases e
    exact Memory.wf_writeFrom _ _ (Memory.wf_writeFrom _ _ h)

/-- Bytes below where they are written stay. -/
theorem Memory.read_writeFrom_below (m : Memory) {a k : Nat} (bytes : List Byte) (h : k < a) :
    Memory.read (writeFrom a bytes m) k = Memory.read m k := by
  induction bytes generalizing a m with
  | nil => rfl
  | cons b rest ih =>
    rw [writeFrom, ih _ (by omega), Memory.read_write_other _ _ (by omega)]

/-- Every byte below 0x008000 is P_INIT_MEM's. -/
theorem Memory.read_ingestRom_below {initMem m : Memory} {file : List Byte} {k : Nat} (h : k < 0x008000)
    (e : ingestRom initMem file = some m) : Memory.read m k = Memory.read initMem k := by
  unfold ingestRom at e
  split at e
  · cases e
  · cases e
    rw [Memory.read_writeFrom_below _ _ (by omega), Memory.read_writeFrom_below _ _ h]

end Sys2Proof.Machine
end

