-- ==== Sys2Proof/Laws/Encoding.lean ====
section
/-! SUPPORT. Splitting an operand or an IR node into its fields and putting it together again (R79, R120 to R122), and what the
decoder answers on bytes the encoder writes. -/

namespace Sys2Proof

theorem le16_bytes (v : Word16) : le16 (v.extractLsb' 0 8) (v.extractLsb' 8 8) = v := by
  apply BitVec.eq_of_getLsbD_eq
  intro i hi
  simp only [le16, BitVec.getLsbD_append, BitVec.getLsbD_extractLsb']
  split
  · simp [*]
  · rw [show 8 + (i - 8) = i by omega, show decide (i - 8 < 8) = true by simp; omega]; simp

theorem le24_bytes (v : Addr) : le24 (v.extractLsb' 0 8) (v.extractLsb' 8 8) (v.extractLsb' 16 8) = v := by
  apply BitVec.eq_of_getLsbD_eq
  intro i hi
  simp only [le24, BitVec.getLsbD_append, BitVec.getLsbD_extractLsb']
  split
  · simp [*]
  · split
    · rw [show 8 + (i - 8) = i by omega]; simp [*]
    · rw [show 16 + (i - 8 - 8) = i by omega, show decide (i - 8 - 8 < 8) = true by simp; omega]; simp

theorem bytes16_le16 (lo hi : Byte) : bytes16 (le16 lo hi) = [lo, hi] := by
  simp only [bytes16, le16, List.cons.injEq, and_true]
  constructor <;> apply BitVec.eq_of_getLsbD_eq <;> intro i hi' <;>
    simp only [BitVec.getLsbD_append, BitVec.getLsbD_extractLsb']
  · simp [hi']
  · simp [hi']

theorem bytes24_le24 (lo hi bank : Byte) : bytes24 (le24 lo hi bank) = [lo, hi, bank] := by
  simp only [bytes24, le24, List.cons.injEq, and_true]
  refine ⟨?_, ?_, ?_⟩ <;> apply BitVec.eq_of_getLsbD_eq <;> intro i hi' <;>
    simp only [BitVec.getLsbD_append, BitVec.getLsbD_extractLsb']
  · simp [hi']
  · simp [hi']
  · simp [hi', show ¬ (16 + i < 8) by omega, show ¬ (16 + i - 8 < 8) by omega, show 16 + i - 8 - 8 = i by omega]

theorem zext_low (v : Word16) (h : v.extractLsb' 8 8 = 0#8) : (v.extractLsb' 0 8).setWidth 16 = v := by
  apply BitVec.eq_of_getLsbD_eq
  intro i hi
  simp only [BitVec.getLsbD_setWidth, BitVec.getLsbD_extractLsb']
  by_cases h8 : i < 8
  · simp [h8, hi]
  · have := congrArg (fun b => b.getLsbD (i - 8)) h
    simp only [BitVec.getLsbD_extractLsb'] at this
    rw [show 8 + (i - 8) = i by omega] at this
    simp [h8] at this ⊢
    rw [this (by omega)]

theorem low_zext (b : Byte) : (b.setWidth 16 : Word16).extractLsb' 0 8 = b := by
  apply BitVec.eq_of_getLsbD_eq
  intro i hi
  simp [hi]; omega

theorem high_zext (b : Byte) : (b.setWidth 16 : Word16).extractLsb' 8 8 = 0#8 := by
  apply BitVec.eq_of_getLsbD_eq
  intro i hi
  simp [hi]

/-! ### Fields of an IR node -/

theorem packNode_bit (t : BitVec 16) (a b d : Handle) (i : Nat) :
    (packNode t a b d).getLsbD i =
      if i < 16 then t.getLsbD i else if i < 32 then a.getLsbD (i - 16)
      else if i < 48 then b.getLsbD (i - 32) else d.getLsbD (i - 48) := by
  have h : (((d ++ b) ++ a) ++ t).getLsbD i =
      if i < 16 then t.getLsbD i else if i - 16 < 16 then a.getLsbD (i - 16)
      else if i - 16 - 16 < 16 then b.getLsbD (i - 16 - 16) else d.getLsbD (i - 16 - 16 - 16) := by
    simp only [BitVec.getLsbD_append]
  refine Eq.trans h ?_
  by_cases h1 : i < 16
  · simp [h1]
  · by_cases h2 : i < 32
    · simp [h1, h2, show i - 16 < 16 by omega]
    · by_cases h3 : i < 48
      · simp [h1, h2, h3, show ¬ (i - 16 < 16) by omega, show i - 32 < 16 by omega, show i - 16 - 16 = i - 32 by omega]
      · simp [h1, h2, h3, show ¬ (i - 16 < 16) by omega, show ¬ (i - 16 - 16 < 16) by omega,
          show i - 16 - 16 - 16 = i - 48 by omega]

theorem packConst_bit (n g : Byte) (v : BitVec 32) (i : Nat) :
    (packConst n g v).getLsbD i =
      if i < 16 then false else if i < 24 then n.getLsbD (i - 16)
      else if i < 32 then g.getLsbD (i - 24) else v.getLsbD (i - 32) := by
  have h : (((v ++ g) ++ n) ++ (0#16)).getLsbD i =
      if i < 16 then (0#16).getLsbD i else if i - 16 < 8 then n.getLsbD (i - 16)
      else if i - 16 - 8 < 8 then g.getLsbD (i - 16 - 8) else v.getLsbD (i - 16 - 8 - 8) := by
    simp only [BitVec.getLsbD_append]
  refine Eq.trans h ?_
  by_cases h1 : i < 16
  · simp [h1]
  · by_cases h2 : i < 24
    · simp [h1, h2, show i - 16 < 8 by omega]
    · by_cases h3 : i < 32
      · simp [h1, h2, h3, show ¬ (i - 16 < 8) by omega, show i - 24 < 8 by omega, show i - 16 - 8 = i - 24 by omega]
      · simp [h1, h2, h3, show ¬ (i - 16 < 8) by omega, show ¬ (i - 16 - 8 < 8) by omega,
          show i - 16 - 8 - 8 = i - 32 by omega]

theorem packConst48_bit (v : BitVec 48) (i : Nat) :
    (packConst48 v).getLsbD i = if i < 16 then decide (i = 0) else v.getLsbD (i - 16) := by
  have h : (v ++ (1#16)).getLsbD i = if i < 16 then (1#16).getLsbD i else v.getLsbD (i - 16) := by
    simp only [BitVec.getLsbD_append]
  refine Eq.trans h ?_
  by_cases h1 : i < 16
  · simp [h1]
  · simp [h1]

theorem field_eq {w : Nat} {x : Node} {k : Nat} {v : BitVec w} (h : ∀ i, i < w → x.getLsbD (k + i) = v.getLsbD i) :
    x.extractLsb' k w = v := by
  apply BitVec.eq_of_getLsbD_eq
  intro i hi
  rw [BitVec.getLsbD_extractLsb', h i hi]
  simp [hi]

theorem packNode_tag (t : BitVec 16) (a b d : Handle) : Node.tag (packNode t a b d) = t :=
  field_eq (fun i hi => by rw [packNode_bit, if_pos (by omega)]; simp)

theorem packNode_arg0 (t : BitVec 16) (a b d : Handle) : Node.arg0 (packNode t a b d) = a :=
  field_eq (fun i hi => by rw [packNode_bit, if_neg (by omega), if_pos (by omega)]; congr 1; omega)

theorem packNode_arg1 (t : BitVec 16) (a b d : Handle) : Node.arg1 (packNode t a b d) = b :=
  field_eq (fun i hi => by
    rw [packNode_bit, if_neg (by omega), if_neg (by omega), if_pos (by omega)]; congr 1; omega)

theorem packNode_arg2 (t : BitVec 16) (a b d : Handle) : Node.arg2 (packNode t a b d) = d :=
  field_eq (fun i hi => by
    rw [packNode_bit, if_neg (by omega), if_neg (by omega), if_neg (by omega)]; congr 1; omega)

theorem packConst_tag (n g : Byte) (v : BitVec 32) : Node.tag (packConst n g v) = 0#16 :=
  field_eq (fun i hi => by rw [packConst_bit, if_pos (by omega)]; simp)

theorem packConst_numBits (n g : Byte) (v : BitVec 32) : (packConst n g v).extractLsb' 16 8 = n :=
  field_eq (fun i hi => by rw [packConst_bit, if_neg (by omega), if_pos (by omega)]; congr 1; omega)

theorem packConst_isSigned (n g : Byte) (v : BitVec 32) : (packConst n g v).extractLsb' 24 8 = g :=
  field_eq (fun i hi => by
    rw [packConst_bit, if_neg (by omega), if_neg (by omega), if_pos (by omega)]; congr 1; omega)

theorem packConst_value (n g : Byte) (v : BitVec 32) : (packConst n g v).extractLsb' 32 32 = v :=
  field_eq (fun i hi => by
    rw [packConst_bit, if_neg (by omega), if_neg (by omega), if_neg (by omega)]; congr 1; omega)

theorem packConst48_tag (v : BitVec 48) : Node.tag (packConst48 v) = 1#16 :=
  field_eq (fun i hi => by rw [packConst48_bit, if_pos (by omega)]; simp [hi])

theorem packConst48_imm (v : BitVec 48) : (packConst48 v).extractLsb' 16 48 = v :=
  field_eq (fun i hi => by rw [packConst48_bit, if_neg (by omega)]; congr 1; omega)

/-! ### Decoding what the encoder writes -/

theorem operandImm_bytes {narrow : Bool} {v : Word16} (k : Word16 → Instr) (h : immFits narrow v = true) :
    operandImm narrow k (bytesImm narrow v) = .ok (k v, []) := by
  cases narrow
  · simp [operandImm, bytesImm, bytes16, operand16, le16_bytes]
  · simp only [immFits, Bool.not_true, Bool.false_or, beq_iff_eq] at h
    simp [operandImm, bytesImm, operand8, zext_low v h]

theorem operandSr_bytes {sr : SrOffset} {v : Word16} (k : Word16 → Instr) (h : srFits sr v = true) :
    operandSr sr k (bytesSr sr v) = .ok (k v, []) := by
  cases sr
  · simp [srFits] at h
    simp [operandSr, bytesSr, operand8, zext_low v h]
  · simp [operandSr, bytesSr, bytes16, operand16, le16_bytes]

theorem operand16_bytes (k : Word16 → Instr) (v : Word16) : operand16 k (bytes16 v) = .ok (k v, []) := by
  simp [bytes16, operand16, le16_bytes]

theorem operand24_bytes (k : Addr → Instr) (v : Addr) : operand24 k (bytes24 v) = .ok (k v, []) := by
  simp [bytes24, operand24, le24_bytes]

end Sys2Proof
end

