-- ==== Sys2Proof/Laws/State.lean ====
section
/-! SUPPORT. One lemma a field an update, each by unfolding the update once, so that no later proof unfolds a record update. -/

namespace Sys2Proof.Machine

/-! ### Regs.tick -/

@[simp] theorem Regs.tick_a (k : Nat) (r : Regs) : (r.tick k).a = r.a := rfl
@[simp] theorem Regs.tick_b (k : Nat) (r : Regs) : (r.tick k).b = r.b := rfl
@[simp] theorem Regs.tick_d (k : Nat) (r : Regs) : (r.tick k).d = r.d := rfl
@[simp] theorem Regs.tick_x (k : Nat) (r : Regs) : (r.tick k).x = r.x := rfl
@[simp] theorem Regs.tick_y (k : Nat) (r : Regs) : (r.tick k).y = r.y := rfl
@[simp] theorem Regs.tick_s (k : Nat) (r : Regs) : (r.tick k).s = r.s := rfl
@[simp] theorem Regs.tick_pc (k : Nat) (r : Regs) : (r.tick k).pc = r.pc := rfl
@[simp] theorem Regs.tick_pbr (k : Nat) (r : Regs) : (r.tick k).pbr = r.pbr := rfl
@[simp] theorem Regs.tick_dbr (k : Nat) (r : Regs) : (r.tick k).dbr = r.dbr := rfl
@[simp] theorem Regs.tick_n (k : Nat) (r : Regs) : (r.tick k).n = r.n := rfl
@[simp] theorem Regs.tick_v (k : Nat) (r : Regs) : (r.tick k).v = r.v := rfl
@[simp] theorem Regs.tick_m (k : Nat) (r : Regs) : (r.tick k).m = r.m := rfl
@[simp] theorem Regs.tick_xf (k : Nat) (r : Regs) : (r.tick k).xf = r.xf := rfl
@[simp] theorem Regs.tick_df (k : Nat) (r : Regs) : (r.tick k).df = r.df := rfl
@[simp] theorem Regs.tick_i (k : Nat) (r : Regs) : (r.tick k).i = r.i := rfl
@[simp] theorem Regs.tick_z (k : Nat) (r : Regs) : (r.tick k).z = r.z := rfl
@[simp] theorem Regs.tick_c (k : Nat) (r : Regs) : (r.tick k).c = r.c := rfl
@[simp] theorem Regs.tick_e (k : Nat) (r : Regs) : (r.tick k).e = r.e := rfl
@[simp] theorem Regs.tick_cycle (k : Nat) (r : Regs) : (r.tick k).cycle = r.cycle + BitVec.ofNat 64 k := rfl

/-! ### Regs.fetched -/

@[simp] theorem Regs.fetched_a (k : Nat) (r : Regs) : (r.fetched k).a = r.a := rfl
@[simp] theorem Regs.fetched_b (k : Nat) (r : Regs) : (r.fetched k).b = r.b := rfl
@[simp] theorem Regs.fetched_d (k : Nat) (r : Regs) : (r.fetched k).d = r.d := rfl
@[simp] theorem Regs.fetched_x (k : Nat) (r : Regs) : (r.fetched k).x = r.x := rfl
@[simp] theorem Regs.fetched_y (k : Nat) (r : Regs) : (r.fetched k).y = r.y := rfl
@[simp] theorem Regs.fetched_s (k : Nat) (r : Regs) : (r.fetched k).s = r.s := rfl
@[simp] theorem Regs.fetched_pc (k : Nat) (r : Regs) : (r.fetched k).pc = r.pc + BitVec.ofNat 16 k := rfl
@[simp] theorem Regs.fetched_pbr (k : Nat) (r : Regs) : (r.fetched k).pbr = r.pbr := rfl
@[simp] theorem Regs.fetched_dbr (k : Nat) (r : Regs) : (r.fetched k).dbr = r.dbr := rfl
@[simp] theorem Regs.fetched_n (k : Nat) (r : Regs) : (r.fetched k).n = r.n := rfl
@[simp] theorem Regs.fetched_v (k : Nat) (r : Regs) : (r.fetched k).v = r.v := rfl
@[simp] theorem Regs.fetched_m (k : Nat) (r : Regs) : (r.fetched k).m = r.m := rfl
@[simp] theorem Regs.fetched_xf (k : Nat) (r : Regs) : (r.fetched k).xf = r.xf := rfl
@[simp] theorem Regs.fetched_df (k : Nat) (r : Regs) : (r.fetched k).df = r.df := rfl
@[simp] theorem Regs.fetched_i (k : Nat) (r : Regs) : (r.fetched k).i = r.i := rfl
@[simp] theorem Regs.fetched_z (k : Nat) (r : Regs) : (r.fetched k).z = r.z := rfl
@[simp] theorem Regs.fetched_c (k : Nat) (r : Regs) : (r.fetched k).c = r.c := rfl
@[simp] theorem Regs.fetched_e (k : Nat) (r : Regs) : (r.fetched k).e = r.e := rfl
@[simp] theorem Regs.fetched_cycle (k : Nat) (r : Regs) : (r.fetched k).cycle = r.cycle + BitVec.ofNat 64 k := rfl

/-! ### Regs.passed -/

@[simp] theorem Regs.passed_a (k q : Nat) (r : Regs) : (r.passed k q).a = r.a := rfl
@[simp] theorem Regs.passed_b (k q : Nat) (r : Regs) : (r.passed k q).b = r.b := rfl
@[simp] theorem Regs.passed_d (k q : Nat) (r : Regs) : (r.passed k q).d = r.d := rfl
@[simp] theorem Regs.passed_x (k q : Nat) (r : Regs) : (r.passed k q).x = r.x := rfl
@[simp] theorem Regs.passed_y (k q : Nat) (r : Regs) : (r.passed k q).y = r.y := rfl
@[simp] theorem Regs.passed_s (k q : Nat) (r : Regs) : (r.passed k q).s = r.s := rfl
@[simp] theorem Regs.passed_pc (k q : Nat) (r : Regs) : (r.passed k q).pc = r.pc + BitVec.ofNat 16 k := rfl
@[simp] theorem Regs.passed_pbr (k q : Nat) (r : Regs) : (r.passed k q).pbr = r.pbr := rfl
@[simp] theorem Regs.passed_dbr (k q : Nat) (r : Regs) : (r.passed k q).dbr = r.dbr := rfl
@[simp] theorem Regs.passed_n (k q : Nat) (r : Regs) : (r.passed k q).n = r.n := rfl
@[simp] theorem Regs.passed_v (k q : Nat) (r : Regs) : (r.passed k q).v = r.v := rfl
@[simp] theorem Regs.passed_m (k q : Nat) (r : Regs) : (r.passed k q).m = r.m := rfl
@[simp] theorem Regs.passed_xf (k q : Nat) (r : Regs) : (r.passed k q).xf = r.xf := rfl
@[simp] theorem Regs.passed_df (k q : Nat) (r : Regs) : (r.passed k q).df = r.df := rfl
@[simp] theorem Regs.passed_i (k q : Nat) (r : Regs) : (r.passed k q).i = r.i := rfl
@[simp] theorem Regs.passed_z (k q : Nat) (r : Regs) : (r.passed k q).z = r.z := rfl
@[simp] theorem Regs.passed_c (k q : Nat) (r : Regs) : (r.passed k q).c = r.c := rfl
@[simp] theorem Regs.passed_e (k q : Nat) (r : Regs) : (r.passed k q).e = r.e := rfl
@[simp] theorem Regs.passed_cycle (k q : Nat) (r : Regs) : (r.passed k q).cycle = r.cycle + BitVec.ofNat 64 q := rfl

/-! ### modifyStack -/

@[simp] theorem modifyStack_a (up : Bool) (r : Regs) : (modifyStack up r).a = r.a := rfl
@[simp] theorem modifyStack_b (up : Bool) (r : Regs) : (modifyStack up r).b = r.b := rfl
@[simp] theorem modifyStack_d (up : Bool) (r : Regs) : (modifyStack up r).d = r.d := rfl
@[simp] theorem modifyStack_x (up : Bool) (r : Regs) : (modifyStack up r).x = r.x := rfl
@[simp] theorem modifyStack_y (up : Bool) (r : Regs) : (modifyStack up r).y = r.y := rfl
@[simp] theorem modifyStack_s (up : Bool) (r : Regs) : (modifyStack up r).s = stackLock r.e (if up then r.s + 1#16 else r.s - 1#16) := rfl
@[simp] theorem modifyStack_pc (up : Bool) (r : Regs) : (modifyStack up r).pc = r.pc := rfl
@[simp] theorem modifyStack_pbr (up : Bool) (r : Regs) : (modifyStack up r).pbr = r.pbr := rfl
@[simp] theorem modifyStack_dbr (up : Bool) (r : Regs) : (modifyStack up r).dbr = r.dbr := rfl
@[simp] theorem modifyStack_n (up : Bool) (r : Regs) : (modifyStack up r).n = r.n := rfl
@[simp] theorem modifyStack_v (up : Bool) (r : Regs) : (modifyStack up r).v = r.v := rfl
@[simp] theorem modifyStack_m (up : Bool) (r : Regs) : (modifyStack up r).m = r.m := rfl
@[simp] theorem modifyStack_xf (up : Bool) (r : Regs) : (modifyStack up r).xf = r.xf := rfl
@[simp] theorem modifyStack_df (up : Bool) (r : Regs) : (modifyStack up r).df = r.df := rfl
@[simp] theorem modifyStack_i (up : Bool) (r : Regs) : (modifyStack up r).i = r.i := rfl
@[simp] theorem modifyStack_z (up : Bool) (r : Regs) : (modifyStack up r).z = r.z := rfl
@[simp] theorem modifyStack_c (up : Bool) (r : Regs) : (modifyStack up r).c = r.c := rfl
@[simp] theorem modifyStack_e (up : Bool) (r : Regs) : (modifyStack up r).e = r.e := rfl
@[simp] theorem modifyStack_cycle (up : Bool) (r : Regs) : (modifyStack up r).cycle = r.cycle := rfl

/-! ### storeS -/

@[simp] theorem storeS_a (v : Word16) (r : Regs) : (storeS v r).a = r.a := rfl
@[simp] theorem storeS_b (v : Word16) (r : Regs) : (storeS v r).b = r.b := rfl
@[simp] theorem storeS_d (v : Word16) (r : Regs) : (storeS v r).d = r.d := rfl
@[simp] theorem storeS_x (v : Word16) (r : Regs) : (storeS v r).x = r.x := rfl
@[simp] theorem storeS_y (v : Word16) (r : Regs) : (storeS v r).y = r.y := rfl
@[simp] theorem storeS_s (v : Word16) (r : Regs) : (storeS v r).s = stackLock r.e v := rfl
@[simp] theorem storeS_pc (v : Word16) (r : Regs) : (storeS v r).pc = r.pc := rfl
@[simp] theorem storeS_pbr (v : Word16) (r : Regs) : (storeS v r).pbr = r.pbr := rfl
@[simp] theorem storeS_dbr (v : Word16) (r : Regs) : (storeS v r).dbr = r.dbr := rfl
@[simp] theorem storeS_n (v : Word16) (r : Regs) : (storeS v r).n = r.n := rfl
@[simp] theorem storeS_v (v : Word16) (r : Regs) : (storeS v r).v = r.v := rfl
@[simp] theorem storeS_m (v : Word16) (r : Regs) : (storeS v r).m = r.m := rfl
@[simp] theorem storeS_xf (v : Word16) (r : Regs) : (storeS v r).xf = r.xf := rfl
@[simp] theorem storeS_df (v : Word16) (r : Regs) : (storeS v r).df = r.df := rfl
@[simp] theorem storeS_i (v : Word16) (r : Regs) : (storeS v r).i = r.i := rfl
@[simp] theorem storeS_z (v : Word16) (r : Regs) : (storeS v r).z = r.z := rfl
@[simp] theorem storeS_c (v : Word16) (r : Regs) : (storeS v r).c = r.c := rfl
@[simp] theorem storeS_e (v : Word16) (r : Regs) : (storeS v r).e = r.e := rfl
@[simp] theorem storeS_cycle (v : Word16) (r : Regs) : (storeS v r).cycle = r.cycle := rfl

/-! ### storeA -/

@[simp] theorem storeA_a (f : Bool) (v : Word16) (r : Regs) : (storeA f v r).a = lo8 v := rfl
@[simp] theorem storeA_b (f : Bool) (v : Word16) (r : Regs) : (storeA f v r).b = if f || !r.m then hi8 v else r.b := rfl
@[simp] theorem storeA_d (f : Bool) (v : Word16) (r : Regs) : (storeA f v r).d = r.d := rfl
@[simp] theorem storeA_x (f : Bool) (v : Word16) (r : Regs) : (storeA f v r).x = r.x := rfl
@[simp] theorem storeA_y (f : Bool) (v : Word16) (r : Regs) : (storeA f v r).y = r.y := rfl
@[simp] theorem storeA_s (f : Bool) (v : Word16) (r : Regs) : (storeA f v r).s = r.s := rfl
@[simp] theorem storeA_pc (f : Bool) (v : Word16) (r : Regs) : (storeA f v r).pc = r.pc := rfl
@[simp] theorem storeA_pbr (f : Bool) (v : Word16) (r : Regs) : (storeA f v r).pbr = r.pbr := rfl
@[simp] theorem storeA_dbr (f : Bool) (v : Word16) (r : Regs) : (storeA f v r).dbr = r.dbr := rfl
@[simp] theorem storeA_n (f : Bool) (v : Word16) (r : Regs) : (storeA f v r).n = r.n := rfl
@[simp] theorem storeA_v (f : Bool) (v : Word16) (r : Regs) : (storeA f v r).v = r.v := rfl
@[simp] theorem storeA_m (f : Bool) (v : Word16) (r : Regs) : (storeA f v r).m = r.m := rfl
@[simp] theorem storeA_xf (f : Bool) (v : Word16) (r : Regs) : (storeA f v r).xf = r.xf := rfl
@[simp] theorem storeA_df (f : Bool) (v : Word16) (r : Regs) : (storeA f v r).df = r.df := rfl
@[simp] theorem storeA_i (f : Bool) (v : Word16) (r : Regs) : (storeA f v r).i = r.i := rfl
@[simp] theorem storeA_z (f : Bool) (v : Word16) (r : Regs) : (storeA f v r).z = r.z := rfl
@[simp] theorem storeA_c (f : Bool) (v : Word16) (r : Regs) : (storeA f v r).c = r.c := rfl
@[simp] theorem storeA_e (f : Bool) (v : Word16) (r : Regs) : (storeA f v r).e = r.e := rfl
@[simp] theorem storeA_cycle (f : Bool) (v : Word16) (r : Regs) : (storeA f v r).cycle = r.cycle := rfl

/-! ### setNZ8 -/

@[simp] theorem setNZ8_a (v : Byte) (r : Regs) : (setNZ8 v r).a = r.a := rfl
@[simp] theorem setNZ8_b (v : Byte) (r : Regs) : (setNZ8 v r).b = r.b := rfl
@[simp] theorem setNZ8_d (v : Byte) (r : Regs) : (setNZ8 v r).d = r.d := rfl
@[simp] theorem setNZ8_x (v : Byte) (r : Regs) : (setNZ8 v r).x = r.x := rfl
@[simp] theorem setNZ8_y (v : Byte) (r : Regs) : (setNZ8 v r).y = r.y := rfl
@[simp] theorem setNZ8_s (v : Byte) (r : Regs) : (setNZ8 v r).s = r.s := rfl
@[simp] theorem setNZ8_pc (v : Byte) (r : Regs) : (setNZ8 v r).pc = r.pc := rfl
@[simp] theorem setNZ8_pbr (v : Byte) (r : Regs) : (setNZ8 v r).pbr = r.pbr := rfl
@[simp] theorem setNZ8_dbr (v : Byte) (r : Regs) : (setNZ8 v r).dbr = r.dbr := rfl
@[simp] theorem setNZ8_n (v : Byte) (r : Regs) : (setNZ8 v r).n = v.getLsbD 7 := rfl
@[simp] theorem setNZ8_v (v : Byte) (r : Regs) : (setNZ8 v r).v = r.v := rfl
@[simp] theorem setNZ8_m (v : Byte) (r : Regs) : (setNZ8 v r).m = r.m := rfl
@[simp] theorem setNZ8_xf (v : Byte) (r : Regs) : (setNZ8 v r).xf = r.xf := rfl
@[simp] theorem setNZ8_df (v : Byte) (r : Regs) : (setNZ8 v r).df = r.df := rfl
@[simp] theorem setNZ8_i (v : Byte) (r : Regs) : (setNZ8 v r).i = r.i := rfl
@[simp] theorem setNZ8_z (v : Byte) (r : Regs) : (setNZ8 v r).z = (v == 0#8) := rfl
@[simp] theorem setNZ8_c (v : Byte) (r : Regs) : (setNZ8 v r).c = r.c := rfl
@[simp] theorem setNZ8_e (v : Byte) (r : Regs) : (setNZ8 v r).e = r.e := rfl
@[simp] theorem setNZ8_cycle (v : Byte) (r : Regs) : (setNZ8 v r).cycle = r.cycle := rfl

/-! ### setNZ16 -/

@[simp] theorem setNZ16_a (v : Word16) (r : Regs) : (setNZ16 v r).a = r.a := rfl
@[simp] theorem setNZ16_b (v : Word16) (r : Regs) : (setNZ16 v r).b = r.b := rfl
@[simp] theorem setNZ16_d (v : Word16) (r : Regs) : (setNZ16 v r).d = r.d := rfl
@[simp] theorem setNZ16_x (v : Word16) (r : Regs) : (setNZ16 v r).x = r.x := rfl
@[simp] theorem setNZ16_y (v : Word16) (r : Regs) : (setNZ16 v r).y = r.y := rfl
@[simp] theorem setNZ16_s (v : Word16) (r : Regs) : (setNZ16 v r).s = r.s := rfl
@[simp] theorem setNZ16_pc (v : Word16) (r : Regs) : (setNZ16 v r).pc = r.pc := rfl
@[simp] theorem setNZ16_pbr (v : Word16) (r : Regs) : (setNZ16 v r).pbr = r.pbr := rfl
@[simp] theorem setNZ16_dbr (v : Word16) (r : Regs) : (setNZ16 v r).dbr = r.dbr := rfl
@[simp] theorem setNZ16_n (v : Word16) (r : Regs) : (setNZ16 v r).n = v.getLsbD 15 := rfl
@[simp] theorem setNZ16_v (v : Word16) (r : Regs) : (setNZ16 v r).v = r.v := rfl
@[simp] theorem setNZ16_m (v : Word16) (r : Regs) : (setNZ16 v r).m = r.m := rfl
@[simp] theorem setNZ16_xf (v : Word16) (r : Regs) : (setNZ16 v r).xf = r.xf := rfl
@[simp] theorem setNZ16_df (v : Word16) (r : Regs) : (setNZ16 v r).df = r.df := rfl
@[simp] theorem setNZ16_i (v : Word16) (r : Regs) : (setNZ16 v r).i = r.i := rfl
@[simp] theorem setNZ16_z (v : Word16) (r : Regs) : (setNZ16 v r).z = (v == 0#16) := rfl
@[simp] theorem setNZ16_c (v : Word16) (r : Regs) : (setNZ16 v r).c = r.c := rfl
@[simp] theorem setNZ16_e (v : Word16) (r : Regs) : (setNZ16 v r).e = r.e := rfl
@[simp] theorem setNZ16_cycle (v : Word16) (r : Regs) : (setNZ16 v r).cycle = r.cycle := rfl

/-! ### setNZ -/

@[simp] theorem setNZ_a (w : Width) (v : Word16) (r : Regs) : (setNZ w v r).a = r.a := by cases w <;> rfl
@[simp] theorem setNZ_b (w : Width) (v : Word16) (r : Regs) : (setNZ w v r).b = r.b := by cases w <;> rfl
@[simp] theorem setNZ_d (w : Width) (v : Word16) (r : Regs) : (setNZ w v r).d = r.d := by cases w <;> rfl
@[simp] theorem setNZ_x (w : Width) (v : Word16) (r : Regs) : (setNZ w v r).x = r.x := by cases w <;> rfl
@[simp] theorem setNZ_y (w : Width) (v : Word16) (r : Regs) : (setNZ w v r).y = r.y := by cases w <;> rfl
@[simp] theorem setNZ_s (w : Width) (v : Word16) (r : Regs) : (setNZ w v r).s = r.s := by cases w <;> rfl
@[simp] theorem setNZ_pc (w : Width) (v : Word16) (r : Regs) : (setNZ w v r).pc = r.pc := by cases w <;> rfl
@[simp] theorem setNZ_pbr (w : Width) (v : Word16) (r : Regs) : (setNZ w v r).pbr = r.pbr := by cases w <;> rfl
@[simp] theorem setNZ_dbr (w : Width) (v : Word16) (r : Regs) : (setNZ w v r).dbr = r.dbr := by cases w <;> rfl
@[simp] theorem setNZ_v (w : Width) (v : Word16) (r : Regs) : (setNZ w v r).v = r.v := by cases w <;> rfl
@[simp] theorem setNZ_m (w : Width) (v : Word16) (r : Regs) : (setNZ w v r).m = r.m := by cases w <;> rfl
@[simp] theorem setNZ_xf (w : Width) (v : Word16) (r : Regs) : (setNZ w v r).xf = r.xf := by cases w <;> rfl
@[simp] theorem setNZ_df (w : Width) (v : Word16) (r : Regs) : (setNZ w v r).df = r.df := by cases w <;> rfl
@[simp] theorem setNZ_i (w : Width) (v : Word16) (r : Regs) : (setNZ w v r).i = r.i := by cases w <;> rfl
@[simp] theorem setNZ_c (w : Width) (v : Word16) (r : Regs) : (setNZ w v r).c = r.c := by cases w <;> rfl
@[simp] theorem setNZ_e (w : Width) (v : Word16) (r : Regs) : (setNZ w v r).e = r.e := by cases w <;> rfl
@[simp] theorem setNZ_cycle (w : Width) (v : Word16) (r : Regs) : (setNZ w v r).cycle = r.cycle := by cases w <;> rfl

/-! ### storeIdx -/

@[simp] theorem storeIdx_a (i : Idx) (v : Word16) (r : Regs) : (storeIdx i v r).a = r.a := by cases i <;> rfl
@[simp] theorem storeIdx_b (i : Idx) (v : Word16) (r : Regs) : (storeIdx i v r).b = r.b := by cases i <;> rfl
@[simp] theorem storeIdx_d (i : Idx) (v : Word16) (r : Regs) : (storeIdx i v r).d = r.d := by cases i <;> rfl
@[simp] theorem storeIdx_s (i : Idx) (v : Word16) (r : Regs) : (storeIdx i v r).s = r.s := by cases i <;> rfl
@[simp] theorem storeIdx_pc (i : Idx) (v : Word16) (r : Regs) : (storeIdx i v r).pc = r.pc := by cases i <;> rfl
@[simp] theorem storeIdx_pbr (i : Idx) (v : Word16) (r : Regs) : (storeIdx i v r).pbr = r.pbr := by cases i <;> rfl
@[simp] theorem storeIdx_dbr (i : Idx) (v : Word16) (r : Regs) : (storeIdx i v r).dbr = r.dbr := by cases i <;> rfl
@[simp] theorem storeIdx_n (i : Idx) (v : Word16) (r : Regs) : (storeIdx i v r).n = r.n := by cases i <;> rfl
@[simp] theorem storeIdx_v (i : Idx) (v : Word16) (r : Regs) : (storeIdx i v r).v = r.v := by cases i <;> rfl
@[simp] theorem storeIdx_m (i : Idx) (v : Word16) (r : Regs) : (storeIdx i v r).m = r.m := by cases i <;> rfl
@[simp] theorem storeIdx_xf (i : Idx) (v : Word16) (r : Regs) : (storeIdx i v r).xf = r.xf := by cases i <;> rfl
@[simp] theorem storeIdx_df (i : Idx) (v : Word16) (r : Regs) : (storeIdx i v r).df = r.df := by cases i <;> rfl
@[simp] theorem storeIdx_i (i : Idx) (v : Word16) (r : Regs) : (storeIdx i v r).i = r.i := by cases i <;> rfl
@[simp] theorem storeIdx_z (i : Idx) (v : Word16) (r : Regs) : (storeIdx i v r).z = r.z := by cases i <;> rfl
@[simp] theorem storeIdx_c (i : Idx) (v : Word16) (r : Regs) : (storeIdx i v r).c = r.c := by cases i <;> rfl
@[simp] theorem storeIdx_e (i : Idx) (v : Word16) (r : Regs) : (storeIdx i v r).e = r.e := by cases i <;> rfl
@[simp] theorem storeIdx_cycle (i : Idx) (v : Word16) (r : Regs) : (storeIdx i v r).cycle = r.cycle := by cases i <;> rfl

/-! ### compareAt -/

@[simp] theorem compareAt_a (w : Width) (p q : Word16) (r : Regs) : (compareAt w p q r).a = r.a := by cases w <;> rfl
@[simp] theorem compareAt_b (w : Width) (p q : Word16) (r : Regs) : (compareAt w p q r).b = r.b := by cases w <;> rfl
@[simp] theorem compareAt_d (w : Width) (p q : Word16) (r : Regs) : (compareAt w p q r).d = r.d := by cases w <;> rfl
@[simp] theorem compareAt_x (w : Width) (p q : Word16) (r : Regs) : (compareAt w p q r).x = r.x := by cases w <;> rfl
@[simp] theorem compareAt_y (w : Width) (p q : Word16) (r : Regs) : (compareAt w p q r).y = r.y := by cases w <;> rfl
@[simp] theorem compareAt_s (w : Width) (p q : Word16) (r : Regs) : (compareAt w p q r).s = r.s := by cases w <;> rfl
@[simp] theorem compareAt_pc (w : Width) (p q : Word16) (r : Regs) : (compareAt w p q r).pc = r.pc := by cases w <;> rfl
@[simp] theorem compareAt_pbr (w : Width) (p q : Word16) (r : Regs) : (compareAt w p q r).pbr = r.pbr := by cases w <;> rfl
@[simp] theorem compareAt_dbr (w : Width) (p q : Word16) (r : Regs) : (compareAt w p q r).dbr = r.dbr := by cases w <;> rfl
@[simp] theorem compareAt_v (w : Width) (p q : Word16) (r : Regs) : (compareAt w p q r).v = r.v := by cases w <;> rfl
@[simp] theorem compareAt_m (w : Width) (p q : Word16) (r : Regs) : (compareAt w p q r).m = r.m := by cases w <;> rfl
@[simp] theorem compareAt_xf (w : Width) (p q : Word16) (r : Regs) : (compareAt w p q r).xf = r.xf := by cases w <;> rfl
@[simp] theorem compareAt_df (w : Width) (p q : Word16) (r : Regs) : (compareAt w p q r).df = r.df := by cases w <;> rfl
@[simp] theorem compareAt_i (w : Width) (p q : Word16) (r : Regs) : (compareAt w p q r).i = r.i := by cases w <;> rfl
@[simp] theorem compareAt_c (w : Width) (p q : Word16) (r : Regs) : (compareAt w p q r).c = (addAt w p (~~~q) true).carry := by cases w <;> rfl
@[simp] theorem compareAt_e (w : Width) (p q : Word16) (r : Regs) : (compareAt w p q r).e = r.e := by cases w <;> rfl
@[simp] theorem compareAt_cycle (w : Width) (p q : Word16) (r : Regs) : (compareAt w p q r).cycle = r.cycle := by cases w <;> rfl

/-! ### rmwFlags -/

@[simp] theorem rmwFlags_a (op : RmwOp) (w : Width) (v : Word16) (r : Regs) : (rmwFlags op w v r).a = r.a := by cases w <;> rfl
@[simp] theorem rmwFlags_b (op : RmwOp) (w : Width) (v : Word16) (r : Regs) : (rmwFlags op w v r).b = r.b := by cases w <;> rfl
@[simp] theorem rmwFlags_d (op : RmwOp) (w : Width) (v : Word16) (r : Regs) : (rmwFlags op w v r).d = r.d := by cases w <;> rfl
@[simp] theorem rmwFlags_x (op : RmwOp) (w : Width) (v : Word16) (r : Regs) : (rmwFlags op w v r).x = r.x := by cases w <;> rfl
@[simp] theorem rmwFlags_y (op : RmwOp) (w : Width) (v : Word16) (r : Regs) : (rmwFlags op w v r).y = r.y := by cases w <;> rfl
@[simp] theorem rmwFlags_s (op : RmwOp) (w : Width) (v : Word16) (r : Regs) : (rmwFlags op w v r).s = r.s := by cases w <;> rfl
@[simp] theorem rmwFlags_pc (op : RmwOp) (w : Width) (v : Word16) (r : Regs) : (rmwFlags op w v r).pc = r.pc := by cases w <;> rfl
@[simp] theorem rmwFlags_pbr (op : RmwOp) (w : Width) (v : Word16) (r : Regs) : (rmwFlags op w v r).pbr = r.pbr := by cases w <;> rfl
@[simp] theorem rmwFlags_dbr (op : RmwOp) (w : Width) (v : Word16) (r : Regs) : (rmwFlags op w v r).dbr = r.dbr := by cases w <;> rfl
@[simp] theorem rmwFlags_v (op : RmwOp) (w : Width) (v : Word16) (r : Regs) : (rmwFlags op w v r).v = r.v := by cases w <;> rfl
@[simp] theorem rmwFlags_m (op : RmwOp) (w : Width) (v : Word16) (r : Regs) : (rmwFlags op w v r).m = r.m := by cases w <;> rfl
@[simp] theorem rmwFlags_xf (op : RmwOp) (w : Width) (v : Word16) (r : Regs) : (rmwFlags op w v r).xf = r.xf := by cases w <;> rfl
@[simp] theorem rmwFlags_df (op : RmwOp) (w : Width) (v : Word16) (r : Regs) : (rmwFlags op w v r).df = r.df := by cases w <;> rfl
@[simp] theorem rmwFlags_i (op : RmwOp) (w : Width) (v : Word16) (r : Regs) : (rmwFlags op w v r).i = r.i := by cases w <;> rfl
@[simp] theorem rmwFlags_c (op : RmwOp) (w : Width) (v : Word16) (r : Regs) : (rmwFlags op w v r).c = (op.at w v r.c).2 := by cases w <;> rfl
@[simp] theorem rmwFlags_e (op : RmwOp) (w : Width) (v : Word16) (r : Regs) : (rmwFlags op w v r).e = r.e := by cases w <;> rfl
@[simp] theorem rmwFlags_cycle (op : RmwOp) (w : Width) (v : Word16) (r : Regs) : (rmwFlags op w v r).cycle = r.cycle := by cases w <;> rfl

/-! ### unpackFlags -/

@[simp] theorem unpackFlags_a (p : Byte) (r : Regs) : (unpackFlags p r).a = r.a := rfl
@[simp] theorem unpackFlags_b (p : Byte) (r : Regs) : (unpackFlags p r).b = r.b := rfl
@[simp] theorem unpackFlags_d (p : Byte) (r : Regs) : (unpackFlags p r).d = r.d := rfl
@[simp] theorem unpackFlags_x (p : Byte) (r : Regs) : (unpackFlags p r).x = r.x := rfl
@[simp] theorem unpackFlags_y (p : Byte) (r : Regs) : (unpackFlags p r).y = r.y := rfl
@[simp] theorem unpackFlags_s (p : Byte) (r : Regs) : (unpackFlags p r).s = r.s := rfl
@[simp] theorem unpackFlags_pc (p : Byte) (r : Regs) : (unpackFlags p r).pc = r.pc := rfl
@[simp] theorem unpackFlags_pbr (p : Byte) (r : Regs) : (unpackFlags p r).pbr = r.pbr := rfl
@[simp] theorem unpackFlags_dbr (p : Byte) (r : Regs) : (unpackFlags p r).dbr = r.dbr := rfl
@[simp] theorem unpackFlags_n (p : Byte) (r : Regs) : (unpackFlags p r).n = p.getLsbD 7 := rfl
@[simp] theorem unpackFlags_v (p : Byte) (r : Regs) : (unpackFlags p r).v = p.getLsbD 6 := rfl
@[simp] theorem unpackFlags_m (p : Byte) (r : Regs) : (unpackFlags p r).m = if r.e then r.m else p.getLsbD 5 := rfl
@[simp] theorem unpackFlags_xf (p : Byte) (r : Regs) : (unpackFlags p r).xf = if r.e then r.xf else p.getLsbD 4 := rfl
@[simp] theorem unpackFlags_df (p : Byte) (r : Regs) : (unpackFlags p r).df = p.getLsbD 3 := rfl
@[simp] theorem unpackFlags_i (p : Byte) (r : Regs) : (unpackFlags p r).i = p.getLsbD 2 := rfl
@[simp] theorem unpackFlags_z (p : Byte) (r : Regs) : (unpackFlags p r).z = p.getLsbD 1 := rfl
@[simp] theorem unpackFlags_c (p : Byte) (r : Regs) : (unpackFlags p r).c = p.getLsbD 0 := rfl
@[simp] theorem unpackFlags_e (p : Byte) (r : Regs) : (unpackFlags p r).e = r.e := rfl
@[simp] theorem unpackFlags_cycle (p : Byte) (r : Regs) : (unpackFlags p r).cycle = r.cycle := rfl

/-! ### The views a cycle or a PC step leaves alone -/

@[simp] theorem loadA_tick (k : Nat) (r : Regs) : loadA (r.tick k) = loadA r := rfl
@[simp] theorem widthA_tick (k : Nat) (r : Regs) : widthA (r.tick k) = widthA r := rfl
@[simp] theorem widthX_tick (k : Nat) (r : Regs) : widthX (r.tick k) = widthX r := rfl
@[simp] theorem loadIdx_tick (i : Idx) (k : Nat) (r : Regs) : loadIdx i (r.tick k) = loadIdx i r := by
  cases i <;> rfl
@[simp] theorem loadA_fetched (k : Nat) (r : Regs) : loadA (r.fetched k) = loadA r := rfl
@[simp] theorem widthA_fetched (k : Nat) (r : Regs) : widthA (r.fetched k) = widthA r := rfl
@[simp] theorem widthX_fetched (k : Nat) (r : Regs) : widthX (r.fetched k) = widthX r := rfl
@[simp] theorem loadIdx_fetched (i : Idx) (k : Nat) (r : Regs) : loadIdx i (r.fetched k) = loadIdx i r := by
  cases i <;> rfl
@[simp] theorem loadA_passed (k q : Nat) (r : Regs) : loadA (r.passed k q) = loadA r := rfl
@[simp] theorem widthA_passed (k q : Nat) (r : Regs) : widthA (r.passed k q) = widthA r := rfl
@[simp] theorem widthX_passed (k q : Nat) (r : Regs) : widthX (r.passed k q) = widthX r := rfl
@[simp] theorem loadIdx_passed (i : Idx) (k q : Nat) (r : Regs) : loadIdx i (r.passed k q) = loadIdx i r := by
  cases i <;> rfl
@[simp] theorem dpPenalty_tick (k : Nat) (r : Regs) : dpPenalty (r.tick k) = dpPenalty r := rfl
@[simp] theorem dpPenalty_fetched (k : Nat) (r : Regs) : dpPenalty (r.fetched k) = dpPenalty r := rfl
@[simp] theorem readPenalty_tick (k : Nat) (r : Regs) (b i : Word16) :
    readPenalty (r.tick k) b i = readPenalty r b i := rfl
@[simp] theorem readPenalty_fetched (k : Nat) (r : Regs) (b i : Word16) :
    readPenalty (r.fetched k) b i = readPenalty r b i := rfl

/-! ### Composing cycle counts -/

theorem Regs.tick_zero (r : Regs) : r.tick 0 = r := by simp [Regs.tick]

@[simp] theorem Regs.tick_tick (j k : Nat) (r : Regs) : (r.tick j).tick k = r.tick (j + k) := by
  simp only [Regs.tick, BitVec.ofNat_add, BitVec.add_assoc]

theorem Regs.fetched_tick (n k : Nat) (r : Regs) : (r.fetched n).tick k = r.passed n (n + k) := by
  simp only [Regs.tick, Regs.fetched, Regs.passed, BitVec.ofNat_add, BitVec.add_assoc]

theorem Regs.fetched_eq_passed (n : Nat) (r : Regs) : r.fetched n = r.passed n n := rfl

end Sys2Proof.Machine
end

