-- ==== Sys2Proof/Laws/Exec.lean ====
section
/-! SUPPORT. What each shared operation does, once: the guest-level primitives, the stack, the addressing modes and the data
accesses as equations, for machines in which every 24-bit address is in range. -/

namespace Sys2Proof.Machine

/-! ### Sequencing -/

@[simp] theorem Exec.bind_apply {α β : Type} (x : Exec α) (f : α → Exec β) (s : State) :
    (x >>= f) s = match x s with | .ok a t => f a t | .error e t => .error e t := by
  simp only [bind, EStateM.bind]
  cases x s <;> rfl

@[simp] theorem Exec.pure_apply {α : Type} (a : α) (s : State) : (pure a : Exec α) s = .ok a s := rfl
@[simp] theorem readR_apply (s : State) : readR s = .ok s.r s := rfl
@[simp] theorem modR_apply (f : Regs → Regs) (s : State) : modR f s = .ok () { s with r := f s.r } := rfl
@[simp] theorem io_apply (s : State) : io s = .ok () { s with r := s.r.tick 1 } := rfl
@[simp] theorem blockEnd_apply (s : State) : blockEnd s = .ok () { s with ending := true } := rfl
@[simp] theorem fetched_apply (n : Nat) (s : State) :
    fetched n s = .ok () { s with r := s.r.fetched n, ending := false } := rfl

@[simp] theorem Exec.map_apply {α β : Type} (f : α → β) (x : Exec α) (s : State) :
    (f <$> x) s = match x s with | .ok a t => .ok (f a) t | .error e t => .error e t := by
  simp only [Functor.map, EStateM.map]
  cases x s <;> rfl

@[simp] theorem Regs.passed_tick (n k q : Nat) (r : Regs) : (r.passed n k).tick q = r.passed n (k + q) := by
  simp only [Regs.tick, Regs.passed, BitVec.ofNat_add, BitVec.add_assoc]

/-- A meaning whose rule goes on ends in the state the rule leaves. -/
theorem runGuest_ok {n : Nat} {body : Exec Unit} {s t : State}
    (h : body { s with r := s.r.fetched n, ending := false } = .ok () t) : runGuest n body s = .next t := by
  simp [runGuest, h]

/-! ### Views that the cycle counter does not touch -/

@[simp] theorem packFlags_tick (k : Nat) (r : Regs) : packFlags (r.tick k) = packFlags r := rfl
@[simp] theorem packFlags_fetched (k : Nat) (r : Regs) : packFlags (r.fetched k) = packFlags r := rfl
@[simp] theorem packFlags_passed (k q : Nat) (r : Regs) : packFlags (r.passed k q) = packFlags r := rfl

@[simp] theorem eaOf_tick (mem : Memory) (k : Nat) (r : Regs) (m : Mode) : eaOf mem (r.tick k) m = eaOf mem r m := by
  cases m <;> simp [eaOf]
@[simp] theorem eaOf_fetched (mem : Memory) (k : Nat) (r : Regs) (m : Mode) :
    eaOf mem (r.fetched k) m = eaOf mem r m := by
  cases m <;> simp [eaOf]
@[simp] theorem eaOf_passed (mem : Memory) (k q : Nat) (r : Regs) (m : Mode) :
    eaOf mem (r.passed k q) m = eaOf mem r m := by
  cases m <;> simp [eaOf]
@[simp] theorem eaCycles_passed (st : Bool) (mem : Memory) (k q : Nat) (r : Regs) (m : Mode) :
    eaCycles st mem (r.passed k q) m = eaCycles st mem r m := by
  cases m <;> simp only [eaCycles, loadIdx_passed] <;> rfl
@[simp] theorem eaCycles_fetched (st : Bool) (mem : Memory) (k : Nat) (r : Regs) (m : Mode) :
    eaCycles st mem (r.fetched k) m = eaCycles st mem r m := by
  cases m <;> simp [eaCycles, dpCycles, indexCycles]

/-! ### Accesses in range -/

theorem State.fullMemory.inRange {s : State} (h : s.fullMemory) (a : Addr) : a.toNat < s.cfg.memBytes :=
  Nat.lt_of_lt_of_le a.isLt h

theorem memRead_full {s : State} (h : s.fullMemory) (a : Addr) :
    memRead a s = .ok (byteAt s.mem a) { s with r := s.r.tick 1 } := by
  simp [memRead, byteAt, h.inRange a]

theorem memWrite_full {s : State} (h : s.fullMemory) (a : Addr) (v : Byte) :
    memWrite a v s = .ok () { s with mem := Memory.write s.mem a.toNat v, r := s.r.tick 1 } := by
  simp [memWrite, h.inRange a]

/-- Full memory depends on the parameters alone. -/
theorem State.fullMemory.of_cfg {s t : State} (h : s.fullMemory) (hc : t.cfg = s.cfg) : t.fullMemory := by
  unfold State.fullMemory at *; rw [hc]; exact h

theorem directBase_apply (d : Byte) (s : State) :
    directBase d s = .ok (s.r.d + zext16 d) { s with r := s.r.tick (dpCycles s.r) } := by
  unfold directBase dpCycles
  cases hp : dpPenalty s.r <;> simp [hp, bit, Regs.tick_zero]

theorem readPtr16_full {s : State} (h : s.fullMemory) (p : Word16) :
    readPtr16 p s = .ok (ptr16At s.mem s.r.e p) { s with r := s.r.tick 2 } := by
  have h1 : ∀ k, State.fullMemory { s with r := s.r.tick k } := fun k => h
  simp [readPtr16, ptr16At, memRead_full h, memRead_full (h1 _)]

theorem readPtr24_full {s : State} (h : s.fullMemory) (p : Word16) :
    readPtr24 p s = .ok (ptr24At s.mem s.r.e p) { s with r := s.r.tick 3 } := by
  have h1 : ∀ k, State.fullMemory { s with r := s.r.tick k } := fun k => h
  simp [readPtr24, ptr24At, readPtr16_full h, memRead_full (h1 _)]

theorem indexPenalty_apply (st : Bool) (r : Regs) (b i : Word16) (s : State) :
    indexPenalty st r b i s = .ok () { s with r := s.r.tick (indexCycles st r b i) } := by
  unfold indexPenalty indexCycles
  cases hp : (st || readPenalty r b i) <;> simp [bit, Regs.tick_zero]

/-- An addressing mode: its closed form, and only CYCLE changes. -/
theorem Mode.ea_full {s : State} (h : s.fullMemory) (st : Bool) (m : Mode) :
    m.ea st s = .ok (eaOf s.mem s.r m) { s with r := s.r.tick (eaCycles st s.mem s.r m) } := by
  have h1 : ∀ k, State.fullMemory { s with r := s.r.tick k } := fun k => h
  cases m <;>
    simp [Mode.ea, eaOf, eaCycles, directBase_apply, readPtr16_full (h1 _), readPtr24_full (h1 _), indexPenalty_apply,
      indexCycles, Regs.tick_zero]

theorem readOperand_full {s : State} (h : s.fullMemory) (ea : Ea) (w : Width) :
    readOperand ea w s = .ok (operandAt s.mem ea w) { s with r := s.r.tick w.bytes } := by
  have h1 : ∀ k, State.fullMemory { s with r := s.r.tick k } := fun k => h
  cases w <;> simp [readOperand, operandAt, Width.bytes, memRead_full h, memRead_full (h1 _)]

theorem writeOperand_full {s : State} (h : s.fullMemory) (ea : Ea) (w : Width) (v : Word16) :
    writeOperand ea w v s =
      .ok () { s with mem := storedAt s.mem ea w v, r := s.r.tick w.bytes } := by
  have h1 : ∀ m k, State.fullMemory { s with mem := m, r := s.r.tick k } := fun m k => h
  cases w <;> simp [writeOperand, storedAt, Width.bytes, memWrite_full h, memWrite_full (h1 _ _)]

theorem writeBack_full {s : State} (h : s.fullMemory) (ea : Ea) (w : Width) (v : Word16) :
    writeBack ea w v s =
      .ok () { s with mem := writtenBack s.mem ea w v, r := s.r.tick w.bytes } := by
  have h1 : ∀ m k, State.fullMemory { s with mem := m, r := s.r.tick k } := fun m k => h
  cases w <;> simp [writeBack, writtenBack, Width.bytes, memWrite_full h, memWrite_full (h1 _ _)]

/-! ### The stack -/

/-- S stepped once, as `modifyStack` does. -/
theorem modifyStack_eq (up : Bool) (r : Regs) :
    modifyStack up r = { r with s := stackLock r.e (if up then r.s + 1#16 else r.s - 1#16) } := rfl

theorem push8_full {s : State} (h : s.fullMemory) (v : Byte) :
    push8 v s =
      .ok () { s with
        mem := Memory.write s.mem (mkAddr 0x00#8 s.r.s).toNat v
        r := { s.r.tick 1 with s := stackLock s.r.e (s.r.s - 1#16) } } := by
  simp [push8, memWrite_full h, modifyStack_eq]

theorem pull8_full {s : State} (h : s.fullMemory) :
    pull8 s =
      .ok (stackByte s.mem (stackLock s.r.e (s.r.s + 1#16)))
        { s with r := { s.r.tick 1 with s := stackLock s.r.e (s.r.s + 1#16) } } := by
  have h1 : ∀ q, State.fullMemory { s with r := q } := fun q => h
  simp [pull8, memRead_full (h1 _), modifyStack_eq, stackByte, Regs.tick]

theorem push16_full {s : State} (h : s.fullMemory) (v : Word16) :
    push16 v s =
      .ok () { s with
        mem := pushedMem s.mem s.r.e s.r.s [hi8 v, lo8 v]
        r := { s.r.tick 2 with s := pushedS s.r.e s.r.s 2 } } := by
  have h1 : ∀ m q, State.fullMemory { s with mem := m, r := q } := fun m q => h
  simp [push16, push8_full h, push8_full (h1 _ _), pushedMem, pushedS, Regs.tick, BitVec.add_assoc]

theorem pull16_full {s : State} (h : s.fullMemory) :
    pull16 s =
      .ok (cat16 (pulledByte s.mem s.r.e s.r.s 2) (pulledByte s.mem s.r.e s.r.s 1))
        { s with r := { s.r.tick 2 with s := pulledS s.r.e s.r.s 2 } } := by
  have h1 : ∀ q, State.fullMemory { s with r := q } := fun q => h
  simp [pull16, pull8_full h, pull8_full (h1 _), pulledByte, pulledS, Regs.tick, BitVec.add_assoc]

/-! ### Bytes after a store -/

theorem byteAt_write (mem : Memory) (a b : Addr) (v : Byte) :
    byteAt (Memory.write mem a.toNat v) b = if a = b then v else byteAt mem b := by
  unfold byteAt
  rw [Memory.read_write]
  simp only [BitVec.toNat_inj]

/-- The two bytes of a 16-bit datum lie at different addresses. -/
theorem Ea.hi_ne_addr (ea : Ea) : ea.hi ≠ ea.addr := by
  unfold Ea.hi mkAddr
  split
  · intro h
    have h2 := congrArg (fun a => (a.extractLsb' 0 16).toNat) h
    simp only [BitVec.extractLsb'_toNat, BitVec.toNat_append, BitVec.toNat_add, BitVec.toNat_ofNat] at h2
    simp at h2
    omega
  · intro h
    bv_omega

end Sys2Proof.Machine
end

