-- ==== Sys2Proof/Laws/Step.lean ====
section
/-! SUPPORT. Fetching an instruction's bytes (R42, R223): when they are in range, the fetch answers exactly the bytes of `codeAt`. -/

namespace Sys2Proof.Machine

theorem fetchPC_inRange {s : State} (h : (mkAddr s.r.pbr s.r.pc).toNat < s.cfg.memBytes) :
    fetchPC s =
      .ok (byteAt s.mem (mkAddr s.r.pbr s.r.pc)) { s with r := { s.r.tick 1 with pc := s.r.pc + 1#16 } } := by
  simp [fetchPC, memRead, h, byteAt, Regs.tick]

theorem fetchBytes_inRange (n : Nat) (s : State)
    (h : ∀ k, k < n → (mkAddr s.r.pbr (s.r.pc + BitVec.ofNat 16 k)).toNat < s.cfg.memBytes) :
    ∃ t, fetchBytes n s = .ok (codeAt s.mem s.r.pbr s.r.pc n) t := by
  induction n generalizing s with
  | zero => exact ⟨s, rfl⟩
  | succ n ih =>
    have h0 := h 0 (by omega)
    simp only [BitVec.add_zero] at h0
    obtain ⟨t, ht⟩ := ih { s with r := { s.r.tick 1 with pc := s.r.pc + 1#16 } } (by
      intro k hk
      have := h (k + 1) (by omega)
      rw [Nat.add_comm k 1, BitVec.ofNat_add, ← BitVec.add_assoc] at this
      exact this)
    refine ⟨t, ?_⟩
    simp only [fetchBytes, Exec.bind_apply, fetchPC_inRange h0, ht, codeAt, Exec.pure_apply]
    rfl

theorem instrLength_pos (c : Ctx) (op : Byte) : 0 < instrLength c op := by
  unfold instrLength
  cases formatOf op <;> simp only [Format.length] <;> first | omega | (split <;> omega)

theorem fetchInstr_inRange (s : State)
    (h : ∀ k, k < instrLength s.ctx (byteAt s.mem (mkAddr s.r.pbr s.r.pc)) →
      (mkAddr s.r.pbr (s.r.pc + BitVec.ofNat 16 k)).toNat < s.cfg.memBytes) :
    ∃ t, fetchInstr s =
      .ok (codeAt s.mem s.r.pbr s.r.pc (instrLength s.ctx (byteAt s.mem (mkAddr s.r.pbr s.r.pc)))) t := by
  obtain ⟨t, ht⟩ := fetchBytes_inRange _ { s with ending := false } h
  have h0 := h 0 (instrLength_pos _ _)
  simp only [BitVec.add_zero] at h0
  refine ⟨t, ?_⟩
  simp only [fetchInstr, Exec.bind_apply, liftRead, h0, if_true]
  exact ht

end Sys2Proof.Machine
end

