-- ==== Sys2Proof/Laws/Ir.lean ====
section
/-! SUPPORT. The interpreter's shared operations: arguments, results, the memory context, the wide accesses, and the frame and the
masked value of a node's rule. -/

namespace Sys2Proof.Machine

/-! ### Arguments and results -/

theorem irArg_some {s : State} {h : Handle} {v : IrVal} (e : s.vals[h.toNat]? = some v) : irArg h s = .ok v s := by
  simp [irArg, e]

theorem irArg_none {s : State} {h : Handle} (e : s.vals[h.toNat]? = none) :
    irArg h s = .error (.structuralIr s.vals.length .badHandle s) s := by
  simp [irArg, e, irFail]

/-- An argument either has a value or fails, the state unchanged. -/
theorem irArg_ok {s t : State} {h : Handle} {v : IrVal} (e : irArg h s = .ok v t) :
    t = s ∧ s.vals[h.toNat]? = some v := by
  unfold irArg at e
  split at e
  · rename_i w hw
    cases e
    exact ⟨rfl, hw⟩
  · cases e

@[simp] theorem get_apply (s : State) : (get : Exec State) s = .ok s s := rfl

theorem irConstArg_is {s : State} {h : Handle} {n : Nat} (e : s.constIs h n) : irConstArg h s = .ok n s := by
  obtain ⟨nb, sg, value, wid, hn, hv, hlt⟩ := e
  simp only [irConstArg, Exec.bind_apply, irArg_some hv, get_apply, hn, isConstNode, if_true, Exec.pure_apply,
    BitVec.toNat_ofNat, Nat.mod_eq_of_lt hlt]

theorem irConstArg_none {s : State} {h : Handle} (e : s.vals[h.toNat]? = none) :
    irConstArg h s = .error (.structuralIr s.vals.length .badHandle s) s := by
  simp [irConstArg, irArg_none e]

theorem irMemState_is {s : State} {ms : Handle} {bus : Nat} {alive : Bool} (e : s.memStateIs ms bus alive) :
    irMemState ms s = .ok (bus, alive) s := by
  obtain ⟨b, c, l, own, bv, lv, hn, ho, hb, hbus, hl, ha⟩ := e
  simp [irMemState, irArg_some ho, hn, memStateHandles, irArg_some hb, irArg_some hl, hbus, ha]

theorem runNode_ok {rule : Exec IrVal} {s t : State} {v : IrVal} (h : rule s = .ok v t) :
    runNode rule s = .next (t.push v) := by
  simp [runNode, h, State.push]

theorem runNode_error {rule : Exec IrVal} {s t : State} {f : Fault} (h : rule s = .error f t) :
    runNode rule s = .fault f := by
  simp [runNode, h]

/-! ### Wide accesses -/

theorem littleEndian_succ (mem : Memory) (a : Addr) (n : Nat) :
    littleEndian mem a (n + 1) = (byteAt mem a).toNat + 256 * littleEndian mem (a + 1#24) n := by
  induction n generalizing a with
  | zero => simp [littleEndian]
  | succ n ih =>
    have e : a + BitVec.ofNat 24 (n + 1) = a + 1#24 + BitVec.ofNat 24 n := by
      rw [Nat.add_comm, BitVec.ofNat_add, ← BitVec.add_assoc]
    rw [littleEndian, ih, e]
    conv => rhs; rw [littleEndian]
    rw [Nat.mul_add, Nat.pow_succ]
    simp only [Nat.mul_assoc, Nat.mul_comm, Nat.add_assoc]

theorem loadBytes_full (n : Nat) (a : Addr) {s : State} (h : s.fullMemory) :
    loadBytes a n s = .ok (littleEndian s.mem a n) s := by
  induction n generalizing a with
  | zero => rfl
  | succ n ih =>
    rw [littleEndian_succ]
    simp [loadBytes, h.inRange a, ih, byteAt]

theorem storedLittle_succ (mem : Memory) (a : Addr) (v n : Nat) :
    storedLittle mem a v (n + 1) = storedLittle (Memory.write mem a.toNat (BitVec.ofNat 8 v)) (a + 1#24) (v / 256) n := by
  induction n generalizing mem a v with
  | zero => simp [storedLittle]
  | succ n ih =>
    have e : a + BitVec.ofNat 24 (n + 1) = a + 1#24 + BitVec.ofNat 24 n := by
      rw [Nat.add_comm, BitVec.ofNat_add, ← BitVec.add_assoc]
    have d : v / 256 ^ (n + 1) = v / 256 / 256 ^ n := by rw [Nat.pow_succ, Nat.mul_comm, Nat.div_div_eq_div_mul]
    rw [storedLittle, ih, e, d]
    rfl

theorem storeBytes_full (n : Nat) (a : Addr) (v : Nat) {s : State} (h : s.fullMemory) :
    storeBytes a v n s = .ok () { s with mem := storedLittle s.mem a v n } := by
  induction n generalizing a v s with
  | zero => rfl
  | succ n ih =>
    have h1 : State.fullMemory { s with mem := Memory.write s.mem a.toNat (BitVec.ofNat 8 v) } := h
    rw [storedLittle_succ]
    simp [storeBytes, h.inRange a, ih _ _ h1]

theorem auxLittle_succ (mem : Memory) (a n : Nat) :
    auxLittle mem a (n + 1) = (Memory.read mem a).toNat + 256 * auxLittle mem (a + 1) n := by
  induction n generalizing a with
  | zero => simp [auxLittle]
  | succ n ih =>
    rw [auxLittle, ih, show a + (n + 1) = a + 1 + n by omega]
    conv => rhs; rw [auxLittle]
    rw [Nat.mul_add, Nat.pow_succ]
    simp only [Nat.mul_assoc, Nat.mul_comm, Nat.add_assoc]

theorem auxRead_eq (mem : Memory) (a n : Nat) : auxRead mem a n = auxLittle mem a n := by
  induction n generalizing a with
  | zero => rfl
  | succ n ih => rw [auxLittle_succ, auxRead, ih]

theorem auxStored_succ (mem : Memory) (a v n : Nat) :
    auxStored mem a v (n + 1) = auxStored (Memory.write mem a (BitVec.ofNat 8 v)) (a + 1) (v / 256) n := by
  induction n generalizing mem a v with
  | zero => simp [auxStored]
  | succ n ih =>
    have d : v / 256 ^ (n + 1) = v / 256 / 256 ^ n := by rw [Nat.pow_succ, Nat.mul_comm, Nat.div_div_eq_div_mul]
    rw [auxStored, ih, show a + (n + 1) = a + 1 + n by omega, d]
    rfl

theorem auxWrite_eq (mem : Memory) (a v n : Nat) : auxWrite mem a v n = auxStored mem a v n := by
  induction n generalizing mem a v with
  | zero => rfl
  | succ n ih => rw [auxStored_succ, auxWrite, ih]

/-- Reading back what was written to the state namespace. -/
theorem auxLittle_auxStored (mem : Memory) (a v n : Nat) : auxLittle (auxStored mem a v n) a n = v % 256 ^ n := by
  have outside : ∀ k m, m ≤ k → auxLittle (auxStored mem a v k) a m = v % 256 ^ m := by
    intro k
    induction k with
    | zero => intro m hm; simp [Nat.le_zero.mp hm, auxLittle, Nat.mod_one]
    | succ k ih =>
      have below : ∀ m, m ≤ k →
          auxLittle (Memory.write (auxStored mem a v k) (a + k) (BitVec.ofNat 8 (v / 256 ^ k))) a m =
            auxLittle (auxStored mem a v k) a m := by
        intro m
        induction m with
        | zero => intro _; rfl
        | succ m im =>
          intro hm
          rw [auxLittle, auxLittle, im (by omega), Memory.read_write_other _ _ (by omega)]
      intro m hm
      rcases Nat.lt_or_ge k m with h | h
      · have : m = k + 1 := by omega
        subst this
        rw [auxLittle, auxStored, below k (Nat.le_refl k), ih k (Nat.le_refl k), Memory.read_write_same]
        rw [Nat.pow_succ, Nat.mod_mul]
        simp
      · rw [auxStored, below m h, ih m h]
  exact outside n n (Nat.le_refl n)

/-! ### What a completed node can have done -/

theorem Exec.bind_ok {α β : Type} {x : Exec α} {f : α → Exec β} {s u : State} {b : β} (h : (x >>= f) s = .ok b u) :
    ∃ a t, x s = .ok a t ∧ f a t = .ok b u := by
  rw [Exec.bind_apply] at h
  split at h
  · rename_i a t hx
    exact ⟨a, t, hx, h⟩
  · cases h

theorem irConstArg_ok {s t : State} {h : Handle} {n : Nat} (e : irConstArg h s = .ok n t) : t = s := by
  obtain ⟨v, s1, h1, e1⟩ := Exec.bind_ok e
  obtain ⟨rfl, -⟩ := irArg_ok h1
  obtain ⟨q, s2, h2, e2⟩ := Exec.bind_ok e1
  cases h2
  split at e2
  · cases e2; rfl
  · cases e2

theorem irSize_ok {s t : State} {h : Handle} {n : Nat} (e : irSize h s = .ok n t) : t = s ∧ n ≤ 8 := by
  obtain ⟨v, s1, h1, e1⟩ := Exec.bind_ok e
  have := irConstArg_ok h1
  subst this
  split at e1
  · cases e1; exact ⟨rfl, by assumption⟩
  · cases e1

theorem irMemState_ok {s t : State} {ms : Handle} {p : Nat × Bool} (e : irMemState ms s = .ok p t) : t = s := by
  obtain ⟨v, s1, h1, e1⟩ := Exec.bind_ok e
  obtain ⟨rfl, -⟩ := irArg_ok h1
  obtain ⟨q, s2, h2, e2⟩ := Exec.bind_ok e1
  cases h2
  cases hn : memStateHandles (nodeAt s1 ms) with
  | none => rw [hn] at e2; cases e2
  | some bl =>
    rw [hn] at e2
    obtain ⟨b, s3, h3, e3⟩ := Exec.bind_ok e2
    obtain ⟨rfl, -⟩ := irArg_ok h3
    obtain ⟨l, s4, h4, e4⟩ := Exec.bind_ok e3
    obtain ⟨rfl, -⟩ := irArg_ok h4
    cases e4; rfl

theorem irResult_ok {s t : State} {w n : Nat} {v : IrVal} (e : irResult w n s = .ok v t) :
    t = s ∧ v = IrVal.of w n ∧ w ≤ 64 := by
  unfold irResult at e
  split at e
  · cases e; exact ⟨rfl, rfl, by assumption⟩
  · cases e

theorem loadBytes_ok {a : Addr} {n v : Nat} {s t : State} (e : loadBytes a n s = .ok v t) : t = s := by
  induction n generalizing a v t with
  | zero => cases e; rfl
  | succ n ih =>
    simp only [loadBytes] at e
    split at e
    · split at e
      · rename_i h
        cases e; exact ih h
      · cases e
    · cases e

theorem storeBytes_ok {a : Addr} {v n : Nat} {s t : State} (e : storeBytes a v n s = .ok () t) :
    t = { s with mem := storedLittle s.mem a v n } := by
  induction n generalizing a v s with
  | zero => cases e; rfl
  | succ n ih =>
    simp only [storeBytes] at e
    split at e
    · rw [storedLittle_succ]
      exact ih e
    · cases e

theorem loadNode_ok {n : Nat} {ms addr : Handle} {s t : State} {v : IrVal} (e : loadNode n ms addr s = .ok v t) :
    t = s ∧ ∃ k, v = IrVal.of (8 * n) k := by
  obtain ⟨p, s1, h1, e1⟩ := Exec.bind_ok e
  have := irMemState_ok h1
  subst this
  obtain ⟨a, s2, h2, e2⟩ := Exec.bind_ok e1
  obtain ⟨rfl, -⟩ := irArg_ok h2
  split at e2
  · cases e2; exact ⟨rfl, _, rfl⟩
  · split at e2
    · obtain ⟨q, s3, h3, e3⟩ := Exec.bind_ok e2
      cases h3
      cases hr : readSlot s2.r a.val.toNat with
      | none => rw [hr] at e3; cases e3
      | some v => rw [hr] at e3; cases e3; exact ⟨rfl, _, rfl⟩
    · obtain ⟨k, s3, h3, e3⟩ := Exec.bind_ok e2
      have := loadBytes_ok h3
      subst this
      cases e3; exact ⟨rfl, _, rfl⟩

/-- A completed store leaves its value and changes the register file or guest memory, not both. -/
theorem storeNode_ok {n : Nat} {ms addr value : Handle} {s t : State} {v : IrVal}
    (e : storeNode n ms addr value s = .ok v t) :
    (∃ k, v = IrVal.of (8 * n) k) ∧ ((∃ r, t = { s with r := r }) ∨ ∃ a k, t = { s with mem := storedLittle s.mem a k n }) := by
  obtain ⟨p, s1, h1, e1⟩ := Exec.bind_ok e
  have := irMemState_ok h1
  subst this
  obtain ⟨a, s2, h2, e2⟩ := Exec.bind_ok e1
  obtain ⟨rfl, -⟩ := irArg_ok h2
  obtain ⟨x, s3, h3, e3⟩ := Exec.bind_ok e2
  obtain ⟨rfl, -⟩ := irArg_ok h3
  simp only at e3
  split at e3
  · split at e3
    · obtain ⟨q, s4, h4, e4⟩ := Exec.bind_ok e3
      cases h4
      cases hr : writeSlot s3.r a.val.toNat x.val.toNat with
      | none =>
        rw [hr] at e4
        obtain ⟨_, _, h5, _⟩ := Exec.bind_ok e4
        cases h5
      | some r =>
        rw [hr] at e4
        cases e4
        exact ⟨⟨_, rfl⟩, .inl ⟨_, rfl⟩⟩
    · obtain ⟨_, s4, h4, e5⟩ := Exec.bind_ok e3
      have := storeBytes_ok h4
      cases e5
      exact ⟨⟨_, rfl⟩, .inr ⟨_, _, this⟩⟩
  · cases e3
    exact ⟨⟨_, rfl⟩, .inl ⟨_, rfl⟩⟩

theorem runNode_next {rule : Exec IrVal} {s t : State} (h : runNode rule s = .next t) :
    ∃ v u, rule s = .ok v u ∧ t = u.push v := by
  unfold runNode at h
  split at h
  · rename_i v u hr
    cases h
    exact ⟨v, u, hr, rfl⟩
  · cases h

theorem masked_of {w : Nat} (n : Nat) (h : w ≤ 64) : (IrVal.of w n).masked = true := by
  have h1 : n % 2 ^ w < 2 ^ w := Nat.mod_lt _ (Nat.two_pow_pos w)
  have h2 : 2 ^ w ≤ 2 ^ 64 := Nat.pow_le_pow_right (by decide) h
  simp only [IrVal.masked, IrVal.of, Bool.and_eq_true, BitVec.toNat_ofNat]
  refine ⟨decide_eq_true h, decide_eq_true ?_⟩
  rw [Nat.mod_eq_of_lt (by omega)]
  exact h1

theorem valuesMasked_get {s : State} {h : Handle} {v : IrVal} (hm : s.valuesMasked = true)
    (e : s.vals[h.toNat]? = some v) : v.masked = true :=
  List.all_eq_true.mp hm v (List.mem_of_getElem? e)

theorem masked_wid {v : IrVal} (h : v.masked = true) : v.wid ≤ 64 := by
  simp only [IrVal.masked, Bool.and_eq_true, decide_eq_true_eq] at h
  exact h.1

theorem Memory.wf_storedLittle {m : Memory} (a : Addr) (v n : Nat) (h : Memory.wf m = true) :
    Memory.wf (storedLittle m a v n) = true := by
  induction n with
  | zero => exact h
  | succ n ih => exact Memory.wf_write _ _ ih

theorem Memory.wf_auxStored {m : Memory} (a v n : Nat) (h : Memory.wf m = true) : Memory.wf (auxStored m a v n) = true := by
  induction n with
  | zero => exact h
  | succ n ih => exact Memory.wf_write _ _ ih

end Sys2Proof.Machine
end

