-- ==== Sys2Proof/Laws/Numbers.lean ====
section
/-! SUPPORT. The flag and register computations on bit vectors agree with the rules' arithmetic on numbers (43_helpers.md R270 to
R291). -/

namespace Sys2Proof.Machine

/-! ### Pieces -/

theorem ofNat8_toNat (v : Word16) : BitVec.ofNat 8 v.toNat = lo8 v := by
  apply BitVec.eq_of_toNat_eq
  simp [lo8_toNat]

theorem setWidth8 (v : Word16) : v.setWidth 8 = lo8 v := by
  apply BitVec.eq_of_toNat_eq
  simp [lo8_toNat]

theorem ofNat8_div (v : Word16) : BitVec.ofNat 8 (v.toNat / 256) = hi8 v := by
  apply BitVec.eq_of_toNat_eq
  have := v.isLt
  simp only [hi8_toNat, BitVec.toNat_ofNat]
  omega

theorem top8 (v : Byte) : v.getLsbD 7 = decide (128 ≤ v.toNat) := by
  have := v.isLt
  simp only [BitVec.getLsbD, Nat.testBit, Nat.shiftRight_eq_div_pow, Nat.reducePow, Nat.one_and_eq_mod_two]
  rcases Nat.lt_or_ge v.toNat 128 with h | h
  · rw [show v.toNat / 128 = 0 by omega, decide_eq_false (by omega)]; rfl
  · rw [show v.toNat / 128 = 1 by omega, decide_eq_true (by omega)]; rfl

theorem top16 (v : Word16) : v.getLsbD 15 = decide (32768 ≤ v.toNat) := by
  have := v.isLt
  simp only [BitVec.getLsbD, Nat.testBit, Nat.shiftRight_eq_div_pow, Nat.reducePow, Nat.one_and_eq_mod_two]
  rcases Nat.lt_or_ge v.toNat 32768 with h | h
  · rw [show v.toNat / 32768 = 0 by omega, decide_eq_false (by omega)]; rfl
  · rw [show v.toNat / 32768 = 1 by omega, decide_eq_true (by omega)]; rfl

theorem beq_zero_eq_decide {w : Nat} (v : BitVec w) : (v == 0#w) = decide (v.toNat = 0) := by
  rw [Bool.eq_iff_iff]
  simp [BitVec.toNat_eq]

/-! ### N and Z, the accumulator, the index registers -/

theorem resultNZ_w8 (n : Nat) (r : Regs) :
    resultNZ .w8 n r = { r with n := decide (128 ≤ n % 256), z := decide (n % 256 = 0) } := rfl

theorem resultNZ_w16 (n : Nat) (r : Regs) :
    resultNZ .w16 n r = { r with n := decide (32768 ≤ n % 65536), z := decide (n % 65536 = 0) } := rfl

theorem setNZ_eq (w : Width) (v : Word16) (r : Regs) : setNZ w v r = resultNZ w v.toNat r := by
  cases w
  · rw [resultNZ_w8]
    simp only [setNZ, setNZ8, top8, beq_zero_eq_decide, lo8_toNat]
  · have := v.isLt
    rw [resultNZ_w16, Nat.mod_eq_of_lt (by omega)]
    simp only [setNZ, setNZ16, top16, beq_zero_eq_decide]

theorem setNZ8_eq (v : Byte) (r : Regs) : setNZ8 v r = resultNZ .w8 v.toNat r := by
  have := v.isLt
  rw [resultNZ_w8, Nat.mod_eq_of_lt (by omega)]
  simp only [setNZ8, top8, beq_zero_eq_decide]

theorem setNZ16_eq (v : Word16) (r : Regs) : setNZ16 v r = resultNZ .w16 v.toNat r := setNZ_eq .w16 v r

/-- N and Z look at the result modulo 2^w only. -/
theorem resultNZ_congr {w : Width} {n k : Nat} (h : n % 2 ^ w.bits = k % 2 ^ w.bits) (r : Regs) :
    resultNZ w n r = resultNZ w k r := by
  unfold resultNZ
  rw [h]

theorem storeA_eq (v : Word16) (r : Regs) : storeA false v r = resultA (widthA r) v.toNat r := by
  unfold storeA resultA widthA widthOf
  cases hm : r.m <;> simp [setWidth8, ofNat8_div]

theorem storeA_force_eq (v : Word16) (r : Regs) : storeA true v r = resultA .w16 v.toNat r := by
  simp [storeA, resultA, setWidth8, ofNat8_div]

theorem storeResultA_eq (v : Word16) (r : Regs) :
    storeResultA v r = resultNZ (widthA r) v.toNat (resultA (widthA r) v.toNat r) := by
  rw [storeResultA, setNZ_eq, storeA_eq]

theorem keptIdx (old v : Word16) :
    cat16 (hi8 old) (lo8 v) = BitVec.ofNat 16 (old.toNat / 256 * 256 + v.toNat % 256) := by
  apply BitVec.eq_of_toNat_eq
  have := old.isLt
  simp only [cat16_toNat, hi8_toNat, lo8_toNat, BitVec.toNat_ofNat]
  omega

theorem storeIdx_eq (i : Idx) (v : Word16) (r : Regs) : storeIdx i v r = resultIdx i (widthX r) v.toNat r := by
  cases i <;> unfold storeIdx resultIdx widthX widthOf <;> cases hx : r.xf <;> simp [Idx.raw, keptIdx]

theorem setIdx_eq (i : Idx) (v : Word16) (r : Regs) :
    setIdx i v r = resultNZ (widthX r) v.toNat (resultIdx i (widthX r) v.toNat r) := by
  rw [setIdx, setNZ_eq, storeIdx_eq]

/-- Only the low `w` bits of a result count. -/
theorem resultA_congr {w : Width} {n k : Nat} (h : n % 2 ^ w.bits = k % 2 ^ w.bits) (r : Regs) :
    resultA w n r = resultA w k r := by
  cases w
  · simp only [Width.bits, Nat.reducePow] at h
    simp only [resultA]
    rw [show BitVec.ofNat 8 n = BitVec.ofNat 8 k from BitVec.eq_of_toNat_eq (by simpa using h)]
  · simp only [Width.bits, Nat.reducePow] at h
    simp only [resultA]
    rw [show BitVec.ofNat 8 n = BitVec.ofNat 8 k from
        BitVec.eq_of_toNat_eq (by simp only [BitVec.toNat_ofNat]; omega),
      show BitVec.ofNat 8 (n / 256) = BitVec.ofNat 8 (k / 256) from
        BitVec.eq_of_toNat_eq (by simp only [BitVec.toNat_ofNat]; omega)]

theorem resultIdx_congr {i : Idx} {w : Width} {n k : Nat} (h : n % 2 ^ w.bits = k % 2 ^ w.bits) (r : Regs) :
    resultIdx i w n r = resultIdx i w k r := by
  cases w <;> simp only [Width.bits, Nat.reducePow] at h <;> cases i <;> simp only [resultIdx]
  · rw [h]
  · rw [h]
  · rw [show BitVec.ofNat 16 n = BitVec.ofNat 16 k from BitVec.eq_of_toNat_eq (by simpa using h)]
  · rw [show BitVec.ofNat 16 n = BitVec.ofNat 16 k from BitVec.eq_of_toNat_eq (by simpa using h)]

theorem loadIdx_toNat (i : Idx) (r : Regs) : (loadIdx i r).toNat = (widthX r).num (i.raw r) := by
  have := (i.raw r).isLt
  unfold loadIdx widthX widthOf Width.num
  cases r.xf
  · simp only [Width.bits, Nat.reducePow, Bool.false_eq_true, if_false]
    omega
  · simp only [Width.bits, zext16_toNat, lo8_toNat, if_true, Nat.reducePow]

/-! ### Add and compare -/

theorem addCarry_toNat (x y : Byte) (c : Bool) :
    (addCarry x y c).res.toNat = (x.toNat + y.toNat + bit c) % 256 ∧
    (addCarry x y c).carry = decide (256 ≤ x.toNat + y.toNat + bit c) := by
  have hx := x.isLt
  have hy := y.isLt
  have hc : bit c ≤ 1 := by cases c <;> decide
  have hs : (x.setWidth 9 + y.setWidth 9 + BitVec.ofNat 9 (bit c)).toNat = x.toNat + y.toNat + bit c := by
    simp only [BitVec.toNat_add, BitVec.toNat_setWidth, BitVec.toNat_ofNat, Nat.reducePow]
    omega
  constructor
  · simp only [addCarry, BitVec.toNat_setWidth, hs, Nat.reducePow]
  · simp only [addCarry, BitVec.getLsbD, hs, Nat.testBit, Nat.shiftRight_eq_div_pow, Nat.reducePow,
      Nat.one_and_eq_mod_two]
    rcases Nat.lt_or_ge (x.toNat + y.toNat + bit c) 256 with h | h
    · rw [show (x.toNat + y.toNat + bit c) / 256 = 0 by omega, decide_eq_false (by omega)]; rfl
    · rw [show (x.toNat + y.toNat + bit c) / 256 = 1 by omega, decide_eq_true (by omega)]; rfl

/-- The overflow of an 8-bit sum in terms of the top bits of operands and result. -/
theorem addCarry_overflow (x y : Byte) (c : Bool) :
    (addCarry x y c).overflow =
      ((decide (128 ≤ x.toNat) ^^ decide (128 ≤ (addCarry x y c).res.toNat)) &&
        (decide (128 ≤ y.toNat) ^^ decide (128 ≤ (addCarry x y c).res.toNat))) := by
  rw [← top8, ← top8, ← top8]
  simp [addCarry]

theorem addAt_w8 (x y : Word16) (c : Bool) :
    (addAt .w8 x y c).res.toNat = (x.toNat % 256 + y.toNat % 256 + bit c) % 256 ∧
    (addAt .w8 x y c).carry = decide (256 ≤ x.toNat % 256 + y.toNat % 256 + bit c) := by
  have h := addCarry_toNat (lo8 x) (lo8 y) c
  simp only [lo8_toNat] at h
  exact ⟨by simp only [addAt, zext16_toNat, h.1], by simp only [addAt, h.2]⟩

theorem addAt_w16 (x y : Word16) (c : Bool) :
    (addAt .w16 x y c).res.toNat = (x.toNat + y.toNat + bit c) % 65536 ∧
    (addAt .w16 x y c).carry = decide (65536 ≤ x.toNat + y.toNat + bit c) := by
  have hx := x.isLt
  have hy := y.isLt
  have hc : bit c ≤ 1 := by cases c <;> decide
  have h1 := addCarry_toNat (lo8 x) (lo8 y) c
  have h2 := addCarry_toNat (hi8 x) (hi8 y) (addCarry (lo8 x) (lo8 y) c).carry
  simp only [lo8_toNat, hi8_toNat] at h1 h2
  rw [h1.2] at h2
  simp only [addAt, addCarry16, cat16_toNat, h1.2, h2.1, h2.2, h1.1]
  generalize bit c = k at *
  rcases Nat.lt_or_ge (x.toNat % 256 + y.toNat % 256 + k) 256 with h | h
  · rw [decide_eq_false (by omega), show bit false = 0 from rfl, decide_eq_decide]
    omega
  · rw [decide_eq_true (by omega), show bit true = 1 from rfl, decide_eq_decide]
    omega

/-- Signed overflow at 8 bits: the signed sum leaves the range. -/
theorem overflow8 (x y k : Nat) (hx : x < 256) (hy : y < 256) (hk : k ≤ 1) :
    ((decide (128 ≤ x) ^^ decide (128 ≤ (x + y + k) % 256)) && (decide (128 ≤ y) ^^ decide (128 ≤ (x + y + k) % 256))) =
      decide (Width.w8.signed x + Width.w8.signed y + (k : Int) < -128 ∨
        128 ≤ Width.w8.signed x + Width.w8.signed y + (k : Int)) := by
  rcases Nat.lt_or_ge x 128 with h1 | h1 <;> rcases Nat.lt_or_ge y 128 with h2 | h2 <;>
    rcases Nat.lt_or_ge ((x + y + k) % 256) 128 with h3 | h3 <;>
    simp only [Width.signed, Width.bits, Nat.reducePow, Nat.reduceSub, h1, h2, h3, Nat.not_le.mpr, Nat.not_lt.mpr, if_true,
      if_false, decide_true, decide_false, Bool.xor_true, Bool.xor_false, Bool.not_false, Bool.and_true,
      Bool.and_false, Bool.xor_self] <;>
    symm <;> simp only [decide_eq_true_eq, decide_eq_false_iff_not] <;> omega

/-- Signed overflow at 16 bits. -/
theorem overflow16 (x y k : Nat) (hx : x < 65536) (hy : y < 65536) (hk : k ≤ 1) :
    ((decide (32768 ≤ x) ^^ decide (32768 ≤ (x + y + k) % 65536)) &&
        (decide (32768 ≤ y) ^^ decide (32768 ≤ (x + y + k) % 65536))) =
      decide (Width.w16.signed x + Width.w16.signed y + (k : Int) < -32768 ∨
        32768 ≤ Width.w16.signed x + Width.w16.signed y + (k : Int)) := by
  rcases Nat.lt_or_ge x 32768 with h1 | h1 <;> rcases Nat.lt_or_ge y 32768 with h2 | h2 <;>
    rcases Nat.lt_or_ge ((x + y + k) % 65536) 32768 with h3 | h3 <;>
    simp only [Width.signed, Width.bits, Nat.reducePow, Nat.reduceSub, h1, h2, h3, Nat.not_le.mpr, Nat.not_lt.mpr, if_true,
      if_false, decide_true, decide_false, Bool.xor_true, Bool.xor_false, Bool.not_false, Bool.and_true,
      Bool.and_false, Bool.xor_self] <;>
    symm <;> simp only [decide_eq_true_eq, decide_eq_false_iff_not] <;> omega

theorem bit_le_one (c : Bool) : bit c ≤ 1 := by cases c <;> decide

theorem addAt_overflow (w : Width) (x y : Word16) (c : Bool) :
    (addAt w x y c).overflow =
      decide (w.signed (w.num x) + w.signed (w.num y) + (bit c : Int) < -(2 ^ (w.bits - 1) : Int) ∨
        (2 ^ (w.bits - 1) : Int) ≤ w.signed (w.num x) + w.signed (w.num y) + (bit c : Int)) := by
  cases w
  · refine Eq.trans ?_ (overflow8 (x.toNat % 256) (y.toNat % 256) (bit c) (by omega) (by omega) (bit_le_one c))
    simp only [addAt]
    rw [addCarry_overflow, (addCarry_toNat _ _ _).1, lo8_toNat, lo8_toNat]
  · have hx := x.isLt
    have hy := y.isLt
    have hn : ∀ v : Word16, Width.w16.num v = v.toNat := fun v => Nat.mod_eq_of_lt v.isLt
    rw [hn, hn]
    refine Eq.trans ?_ (overflow16 x.toNat y.toNat (bit c) hx hy (bit_le_one c))
    have h := addAt_w16 x y c
    have ht : ∀ v : Word16, decide (128 ≤ (hi8 v).toNat) = decide (32768 ≤ v.toNat) := by
      intro v
      rw [decide_eq_decide, hi8_toNat]
      omega
    rw [← h.1, ← ht, ← ht, ← ht]
    simp only [addAt, addCarry16, hi8_cat16]
    rw [addCarry_overflow]

/-- The sum as a number, modulo 2^w, and its carry. -/
theorem addAt_num (w : Width) (x y : Word16) (c : Bool) :
    (addAt w x y c).res.toNat = (w.num x + w.num y + bit c) % 2 ^ w.bits ∧
    (addAt w x y c).carry = decide (2 ^ w.bits ≤ w.num x + w.num y + bit c) := by
  cases w
  · exact addAt_w8 x y c
  · have hn : ∀ v : Word16, Width.w16.num v = v.toNat := fun v => Nat.mod_eq_of_lt v.isLt
    rw [hn, hn]
    exact addAt_w16 x y c

theorem Width.num_lt (w : Width) (v : Word16) : w.num v < 2 ^ w.bits := Nat.mod_lt _ (Nat.two_pow_pos _)

theorem Width.num_not (w : Width) (v : Word16) : w.num (~~~v) = 2 ^ w.bits - 1 - w.num v := by
  have := v.isLt
  cases w <;> simp only [Width.num, Width.bits, BitVec.toNat_not, Nat.reducePow] <;> omega

theorem addResultA_eq (v : Word16) (r : Regs) :
    addResultA v r = addEffect (widthA r) ((widthA r).num (loadA r)) ((widthA r).num v) r := by
  have h := addAt_num (widthA r) (loadA r) v r.c
  have ho := addAt_overflow (widthA r) (loadA r) v r.c
  unfold addResultA addEffect
  simp only [storeResultA_eq]
  rw [h.2, ho]
  have hm : (addAt (widthA r) (loadA r) v r.c).res.toNat % 2 ^ (widthA r).bits =
      ((widthA r).num (loadA r) + (widthA r).num v + bit r.c) % 2 ^ (widthA r).bits := by
    rw [h.1, Nat.mod_mod]
  exact (resultNZ_congr hm _).trans (congrArg _ (resultA_congr hm _))

theorem compareAt_eq (w : Width) (x y : Word16) (r : Regs) :
    compareAt w x y r = compareEffect w (w.num x) (w.num y) r := by
  have h := addAt_num w x (~~~y) true
  have hx := w.num_lt x
  have hy := w.num_lt y
  rw [Width.num_not, show bit true = 1 from rfl] at h
  unfold compareAt compareEffect
  simp only [setNZ_eq]
  rw [h.2]
  have hm : (addAt w x (~~~y) true).res.toNat % 2 ^ w.bits = (w.num x + 2 ^ w.bits - w.num y) % 2 ^ w.bits := by
    rw [h.1, Nat.mod_mod]
    congr 1
    omega
  rw [resultNZ_congr hm]
  have hc : decide (2 ^ w.bits ≤ w.num x + (2 ^ w.bits - 1 - w.num y) + 1) = decide (w.num y ≤ w.num x) := by
    rw [decide_eq_decide]
    omega
  rw [hc]
  rfl

/-- The accumulator family's register effect is the one on numbers. -/
theorem AluOp.apply_eq (op : AluOp) (v : Word16) (r : Regs) : op.apply v r = op.effect v r := by
  have hor : ∀ x y : Word16, (widthA r).num (x ||| y) = (widthA r).num x ||| (widthA r).num y := by
    intro x y
    simp only [Width.num, BitVec.toNat_or, Nat.or_mod_two_pow]
  have hand : ∀ x y : Word16, (widthA r).num (x &&& y) = (widthA r).num x &&& (widthA r).num y := by
    intro x y
    simp only [Width.num, BitVec.toNat_and, Nat.and_mod_two_pow]
  have hxor : ∀ x y : Word16, (widthA r).num (x ^^^ y) = (widthA r).num x ^^^ (widthA r).num y := by
    intro x y
    simp only [Width.num, BitVec.toNat_xor, Nat.xor_mod_two_pow]
  have hnum : ∀ (v : Word16) (n : Nat), (widthA r).num v = n →
      storeResultA v r = resultNZ (widthA r) n (resultA (widthA r) n r) := by
    intro v n h
    have hm : v.toNat % 2 ^ (widthA r).bits = n % 2 ^ (widthA r).bits := by
      rw [← h]
      simp only [Width.num, Nat.mod_mod]
    rw [storeResultA_eq]
    exact (resultNZ_congr hm _).trans (congrArg _ (resultA_congr hm _))
  cases op
  · exact hnum _ _ (hor _ _)
  · exact hnum _ _ (hand _ _)
  · exact hnum _ _ (hxor _ _)
  · exact addResultA_eq v r
  · exact (addResultA_eq _ r).trans (by rw [Width.num_not]; rfl)
  · exact compareAt_eq _ _ _ r
  · exact hnum _ _ rfl

/-! ### Read-modify-write and BIT -/

theorem RmwOp.apply_num8 (op : RmwOp) (v : Byte) (c : Bool) :
    (op.apply v c).1.toNat = (op.number 8 v.toNat c).1 ∧ (op.apply v c).2 = (op.number 8 v.toNat c).2 := by
  have hv := v.isLt
  have hb := bit_le_one c
  cases op
  · exact ⟨by simp only [RmwOp.apply, RmwOp.number, BitVec.toNat_shiftLeft, Nat.shiftLeft_eq, Nat.pow_one], top8 v⟩
  · refine ⟨?_, top8 v⟩
    simp only [RmwOp.apply, RmwOp.number, BitVec.toNat_or, BitVec.toNat_shiftLeft, BitVec.toNat_ofNat, Nat.shiftLeft_eq,
      Nat.pow_one, Nat.reducePow]
    rw [show v.toNat * 2 % 256 = 2 ^ 1 * (v.toNat % 128) by omega, Nat.mod_eq_of_lt (show bit c < 256 by omega),
      ← Nat.two_pow_add_eq_or_of_lt (show bit c < 2 ^ 1 by omega)]
    omega
  · exact ⟨by simp only [RmwOp.apply, RmwOp.number, BitVec.toNat_ushiftRight, Nat.shiftRight_eq_div_pow, Nat.pow_one],
      Nat.testBit_zero _⟩
  · refine ⟨?_, Nat.testBit_zero _⟩
    simp only [RmwOp.apply, RmwOp.number, BitVec.toNat_or, BitVec.toNat_ushiftRight, BitVec.toNat_shiftLeft,
      BitVec.toNat_ofNat, Nat.shiftRight_eq_div_pow, Nat.shiftLeft_eq, Nat.pow_one, Nat.reducePow, Nat.reduceSub]
    rw [show bit c % 256 * 128 % 256 = 2 ^ 7 * bit c by omega, Nat.or_comm,
      ← Nat.two_pow_add_eq_or_of_lt (show v.toNat / 2 < 2 ^ 7 by omega)]
    omega
  · have h1 : BitVec.toNat (1 : BitVec 8) = 1 := rfl
    exact ⟨by simp only [RmwOp.apply, RmwOp.number, BitVec.toNat_add, h1], rfl⟩
  · refine ⟨?_, rfl⟩
    have h1 : BitVec.toNat (1 : BitVec 8) = 1 := rfl
    simp only [RmwOp.apply, RmwOp.number, BitVec.toNat_sub, h1, Nat.reducePow]
    omega

theorem RmwOp.apply_num16 (op : RmwOp) (v : Word16) (c : Bool) :
    (op.apply v c).1.toNat = (op.number 16 v.toNat c).1 ∧ (op.apply v c).2 = (op.number 16 v.toNat c).2 := by
  have hv := v.isLt
  have hb := bit_le_one c
  cases op
  · exact ⟨by simp only [RmwOp.apply, RmwOp.number, BitVec.toNat_shiftLeft, Nat.shiftLeft_eq, Nat.pow_one], top16 v⟩
  · refine ⟨?_, top16 v⟩
    simp only [RmwOp.apply, RmwOp.number, BitVec.toNat_or, BitVec.toNat_shiftLeft, BitVec.toNat_ofNat, Nat.shiftLeft_eq,
      Nat.pow_one, Nat.reducePow]
    rw [show v.toNat * 2 % 65536 = 2 ^ 1 * (v.toNat % 32768) by omega, Nat.mod_eq_of_lt (show bit c < 65536 by omega),
      ← Nat.two_pow_add_eq_or_of_lt (show bit c < 2 ^ 1 by omega)]
    omega
  · exact ⟨by simp only [RmwOp.apply, RmwOp.number, BitVec.toNat_ushiftRight, Nat.shiftRight_eq_div_pow, Nat.pow_one],
      Nat.testBit_zero _⟩
  · refine ⟨?_, Nat.testBit_zero _⟩
    simp only [RmwOp.apply, RmwOp.number, BitVec.toNat_or, BitVec.toNat_ushiftRight, BitVec.toNat_shiftLeft,
      BitVec.toNat_ofNat, Nat.shiftRight_eq_div_pow, Nat.shiftLeft_eq, Nat.pow_one, Nat.reducePow, Nat.reduceSub]
    rw [show bit c % 65536 * 32768 % 65536 = 2 ^ 15 * bit c by omega, Nat.or_comm,
      ← Nat.two_pow_add_eq_or_of_lt (show v.toNat / 2 < 2 ^ 15 by omega)]
    omega
  · have h1 : BitVec.toNat (1 : BitVec 16) = 1 := rfl
    exact ⟨by simp only [RmwOp.apply, RmwOp.number, BitVec.toNat_add, h1], rfl⟩
  · refine ⟨?_, rfl⟩
    have h1 : BitVec.toNat (1 : BitVec 16) = 1 := rfl
    simp only [RmwOp.apply, RmwOp.number, BitVec.toNat_sub, h1, Nat.reducePow]
    omega

theorem RmwOp.at_num (op : RmwOp) (w : Width) (v : Word16) (c : Bool) :
    (op.at w v c).1.toNat = (op.number w.bits (w.num v) c).1 ∧ (op.at w v c).2 = (op.number w.bits (w.num v) c).2 := by
  cases w
  · have h := RmwOp.apply_num8 op (lo8 v) c
    rw [lo8_toNat] at h
    exact ⟨by simp only [RmwOp.at, zext16_toNat]; exact h.1, h.2⟩
  · have h := RmwOp.apply_num16 op v c
    rw [show Width.w16.num v = v.toNat from Nat.mod_eq_of_lt v.isLt]
    exact h

theorem bit_of_num (n k : Nat) : n.testBit k = decide (n / 2 ^ k % 2 = 1) := by
  rw [Bool.eq_iff_iff]
  simp [Nat.testBit, Nat.shiftRight_eq_div_pow]

theorem bitZ_eq (v : Word16) (r : Regs) :
    bitZ v r = { r with z := decide ((widthA r).num (loadA r) &&& (widthA r).num v = 0) } := by
  have hand : ∀ k, (loadA r &&& v).toNat % 2 ^ k = (loadA r).toNat % 2 ^ k &&& v.toNat % 2 ^ k := by
    intro k
    simp only [BitVec.toNat_and, Nat.and_mod_two_pow]
  unfold bitZ
  cases h : widthA r
  · have := hand 8
    simp only [beq_zero_eq_decide, lo8_toNat]
    rw [show Width.w8.num (loadA r) &&& Width.w8.num v = (loadA r &&& v).toNat % 256 from this.symm]
  · have := hand 16
    rw [Nat.mod_eq_of_lt (loadA r &&& v).isLt] at this
    simp only [beq_zero_eq_decide]
    rw [show Width.w16.num (loadA r) &&& Width.w16.num v = (loadA r &&& v).toNat from this.symm]

theorem bitNV_bitZ_eq (v : Word16) (r : Regs) : bitNV v (bitZ v r) = bitEffect v r := by
  have hv := v.isLt
  rw [bitZ_eq]
  unfold bitNV bitEffect
  have hw : ∀ b, widthA { r with z := b } = widthA r := fun _ => rfl
  simp only [hw]
  cases h : widthA r
  · have h7 : v.getLsbD 7 = decide (128 ≤ Width.w8.num v) := by
      rw [BitVec.getLsbD, bit_of_num, decide_eq_decide, show Width.w8.num v = v.toNat % 256 from rfl]
      omega
    have h6 : v.getLsbD 6 = decide (64 ≤ Width.w8.num v % 128) := by
      rw [BitVec.getLsbD, bit_of_num, decide_eq_decide, show Width.w8.num v = v.toNat % 256 from rfl]
      omega
    simp only [h7, h6]
    rfl
  · have h7 : v.getLsbD 15 = decide (32768 ≤ Width.w16.num v) := by
      rw [BitVec.getLsbD, bit_of_num, decide_eq_decide, show Width.w16.num v = v.toNat % 65536 from rfl]
      omega
    have h6 : v.getLsbD 14 = decide (16384 ≤ Width.w16.num v % 32768) := by
      rw [BitVec.getLsbD, bit_of_num, decide_eq_decide, show Width.w16.num v = v.toNat % 65536 from rfl]
      omega
    simp only [h7, h6]
    rfl

end Sys2Proof.Machine
end

