-- ==== Sys2Proof/Laws/Meanings.lean ====
section
/-! SUPPORT. What each shared instruction pattern does, once, as an equation for the state it leaves. -/

namespace Sys2Proof.Machine

/-! ### The accumulator family -/

theorem aluImm_eq (op : AluOp) (v : Word16) (s : State) :
    aluImm op v s =
      .next { s with r := op.effect v (s.r.passed (immLength s.r.m) (immLength s.r.m)), ending := false } := by
  simp only [aluImm, runGuest, Exec.bind_apply, fetched_apply, modR_apply, AluOp.apply_eq, Regs.fetched_eq_passed]

theorem aluMem_full (op : AluOp) (m : Mode) {s : State} (h : s.fullMemory) :
    aluMem op m s =
      .next { s with
        r := op.effect (operandAt s.mem (eaOf s.mem s.r m) (widthA s.r))
          (s.r.passed (m.length s.cfg.srOffset)
            (m.length s.cfg.srOffset + eaCycles false s.mem s.r m + (widthA s.r).bytes))
        ending := false } := by
  have h1 : ∀ q b, State.fullMemory { s with r := q, ending := b } := fun _ _ => h
  simp only [aluMem, runMode, runGuest, Exec.bind_apply, fetched_apply, Mode.ea_full (h1 _ _), readR_apply,
    readOperand_full (h1 _ _), modR_apply, AluOp.apply_eq]
  simp only [Regs.fetched_eq_passed, eaOf_passed, eaCycles_passed, Regs.passed_tick, widthA_passed]

theorem storeMem_full (width : Regs → Width) (value : Regs → Word16) (m : Mode) {s : State} (h : s.fullMemory)
    (hw : ∀ n k, width (s.r.passed n k) = width s.r) (hv : ∀ n k, value (s.r.passed n k) = value s.r) :
    storeMem width value m s =
      .next { s with
        r := s.r.passed (m.length s.cfg.srOffset)
          (m.length s.cfg.srOffset + eaCycles true s.mem s.r m + (width s.r).bytes)
        mem := storedAt s.mem (eaOf s.mem s.r m) (width s.r) (value s.r)
        ending := false } := by
  have h1 : ∀ q b, State.fullMemory { s with r := q, ending := b } := fun _ _ => h
  simp only [storeMem, runMode, runGuest, Exec.bind_apply, fetched_apply, Mode.ea_full (h1 _ _), readR_apply,
    writeOperand_full (h1 _ _)]
  simp only [Regs.fetched_eq_passed, eaOf_passed, eaCycles_passed, Regs.passed_tick, hw, hv]

/-- The bytes a store leaves: its own at `ea` and `ea.hi`, every other as before. -/
theorem storedAt_bytes (mem : Memory) (ea : Ea) (w : Width) (v : Word16) :
    byteAt (storedAt mem ea w v) ea.addr = lo8 v ∧ (w = .w16 → byteAt (storedAt mem ea w v) ea.hi = hi8 v) ∧
    ∀ a, a ∉ storedBytes ea w → byteAt (storedAt mem ea w v) a = byteAt mem a := by
  have hne := Ea.hi_ne_addr ea
  cases w
  · refine ⟨by simp [storedAt, byteAt_write], by simp, ?_⟩
    intro a ha
    simp [storedBytes] at ha
    simp [storedAt, byteAt_write, Ne.symm ha]
  · refine ⟨by simp [storedAt, byteAt_write, hne], by simp [storedAt, byteAt_write], ?_⟩
    intro a ha
    simp [storedBytes] at ha
    simp [storedAt, byteAt_write, Ne.symm ha.1, Ne.symm ha.2]

/-- The bytes a write-back leaves. -/
theorem writtenBack_bytes (mem : Memory) (ea : Ea) (w : Width) (v : Word16) :
    byteAt (writtenBack mem ea w v) ea.addr = lo8 v ∧ (w = .w16 → byteAt (writtenBack mem ea w v) ea.hi = hi8 v) ∧
    ∀ a, a ∉ storedBytes ea w → byteAt (writtenBack mem ea w v) a = byteAt mem a := by
  have hne := Ea.hi_ne_addr ea
  cases w
  · refine ⟨by simp [writtenBack, byteAt_write], by simp, ?_⟩
    intro a ha
    simp [storedBytes] at ha
    simp [writtenBack, byteAt_write, Ne.symm ha]
  · refine ⟨by simp [writtenBack, byteAt_write], by simp [writtenBack, byteAt_write, hne.symm], ?_⟩
    intro a ha
    simp [storedBytes] at ha
    simp [writtenBack, byteAt_write, Ne.symm ha.1, Ne.symm ha.2]

/-! ### Read-modify-write and BIT -/

theorem rmwFlags_eq (op : RmwOp) (w : Width) (v : Word16) (r : Regs) :
    rmwFlags op w v r =
      { resultNZ w (op.number w.bits (w.num v) r.c).1 r with c := (op.number w.bits (w.num v) r.c).2 } := by
  have h := RmwOp.at_num op w v r.c
  unfold rmwFlags
  rw [setNZ_eq, h.1, h.2]
  rfl

theorem rmwAcc_eq (op : RmwOp) (s : State) :
    rmwAcc op s =
      .next { s with
        r :=
          let w := widthA s.r
          let q := op.number w.bits (w.num (loadA s.r)) s.r.c
          { resultNZ w q.1 (resultA w q.1 (s.r.passed 1 2)) with c := q.2 }
        ending := false } := by
  have h := RmwOp.at_num op (widthA s.r) (loadA s.r) s.r.c
  have hw : ∀ r : Regs, ∀ n c, widthA { resultNZ (widthA s.r) n r with c := c } = widthA r := fun _ _ _ => rfl
  simp only [rmwAcc, runGuest, Exec.bind_apply, fetched_apply, io_apply, modR_apply]
  simp only [Regs.fetched_eq_passed, Regs.passed_tick, widthA_passed, loadA_passed, rmwFlags_eq, storeA_eq, Regs.passed_c,
    h.1, hw]
  rfl

theorem rmwMem_full (op : RmwOp) (m : Mode) {s : State} (h : s.fullMemory) :
    rmwMem op m s =
      .next
        (let n := m.length s.cfg.srOffset
         let w := widthA s.r
         let ea := eaOf s.mem s.r m
         let q := op.number w.bits (w.num (operandAt s.mem ea w)) s.r.c
         { s with
           r := { resultNZ w q.1 (s.r.passed n (n + eaCycles true s.mem s.r m + 2 * w.bytes + 1)) with c := q.2 }
           mem := writtenBack s.mem ea w (BitVec.ofNat 16 q.1)
           ending := false }) := by
  have h1 : ∀ q b, State.fullMemory { s with r := q, ending := b } := fun _ _ => h
  have hq := RmwOp.at_num op (widthA s.r) (operandAt s.mem (eaOf s.mem s.r m) (widthA s.r)) s.r.c
  have hn : (op.at (widthA s.r) (operandAt s.mem (eaOf s.mem s.r m) (widthA s.r)) s.r.c).1 =
      BitVec.ofNat 16 (op.number (widthA s.r).bits
        ((widthA s.r).num (operandAt s.mem (eaOf s.mem s.r m) (widthA s.r))) s.r.c).1 := by
    rw [← hq.1]
    simp
  have ht : ∀ w n c k (r : Regs), Regs.tick k { resultNZ w n r with c := c } = { resultNZ w n (r.tick k) with c := c } :=
    fun _ _ _ _ _ => rfl
  simp only [rmwMem, runMode, runGuest, Exec.bind_apply, fetched_apply, Mode.ea_full (h1 _ _), readR_apply,
    readOperand_full (h1 _ _), io_apply, modR_apply, writeBack_full (h1 _ _)]
  simp only [Regs.fetched_eq_passed, eaOf_passed, eaCycles_passed, Regs.passed_tick, widthA_passed, Regs.passed_c,
    rmwFlags_eq, hn, ht]
  have hk : m.length s.cfg.srOffset + eaCycles true s.mem s.r m + (widthA s.r).bytes + 1 + (widthA s.r).bytes =
      m.length s.cfg.srOffset + eaCycles true s.mem s.r m + 2 * (widthA s.r).bytes + 1 := by omega
  rw [hk]

theorem bitImm_eq (v : Word16) (s : State) :
    bitImm v s =
      .next { s with
        r := { s.r.passed (immLength s.r.m) (immLength s.r.m) with
          z := decide ((widthA s.r).num (loadA s.r) &&& (widthA s.r).num v = 0) }
        ending := false } := by
  simp only [bitImm, runGuest, Exec.bind_apply, fetched_apply, modR_apply, bitZ_eq, Regs.fetched_eq_passed]
  rfl

theorem bitMem_full (m : Mode) {s : State} (h : s.fullMemory) :
    bitMem m s =
      .next { s with
        r := bitEffect (operandAt s.mem (eaOf s.mem s.r m) (widthA s.r))
          (s.r.passed (m.length s.cfg.srOffset)
            (m.length s.cfg.srOffset + eaCycles false s.mem s.r m + (widthA s.r).bytes))
        ending := false } := by
  have h1 : ∀ q b, State.fullMemory { s with r := q, ending := b } := fun _ _ => h
  simp only [bitMem, runMode, runGuest, Exec.bind_apply, fetched_apply, Mode.ea_full (h1 _ _), readR_apply,
    readOperand_full (h1 _ _), modR_apply, bitNV_bitZ_eq]
  simp only [Regs.fetched_eq_passed, eaOf_passed, eaCycles_passed, Regs.passed_tick, widthA_passed]

/-! ### The index family -/

@[simp] theorem Idx.raw_passed (i : Idx) (n k : Nat) (r : Regs) : i.raw (r.passed n k) = i.raw r := by
  cases i <;> rfl

theorem loadIdx_num (i : Idx) (r : Regs) : (widthX r).num (loadIdx i r) = (widthX r).num (i.raw r) := by
  unfold Width.num
  rw [loadIdx_toNat]
  unfold Width.num
  rw [Nat.mod_mod]

theorem storedAt_loadIdx (mem : Memory) (ea : Ea) (i : Idx) (r : Regs) :
    storedAt mem ea (widthX r) (loadIdx i r) = storedAt mem ea (widthX r) (i.raw r) := by
  unfold widthX widthOf loadIdx
  cases r.xf <;> simp [storedAt]

theorem ldIdxImm_eq (i : Idx) (v : Word16) (s : State) :
    ldIdxImm i v s =
      .next { s with
        r := resultNZ (widthX s.r) v.toNat
          (resultIdx i (widthX s.r) v.toNat (s.r.passed (immLength s.r.xf) (immLength s.r.xf)))
        ending := false } := by
  simp only [ldIdxImm, runGuest, Exec.bind_apply, fetched_apply, modR_apply, setIdx_eq, Regs.fetched_eq_passed, widthX_passed]

theorem ldIdxMem_full (i : Idx) (m : Mode) {s : State} (h : s.fullMemory) :
    ldIdxMem i m s =
      .next { s with
        r :=
          let v := (operandAt s.mem (eaOf s.mem s.r m) (widthX s.r)).toNat
          resultNZ (widthX s.r) v (resultIdx i (widthX s.r) v
            (s.r.passed (m.length s.cfg.srOffset)
              (m.length s.cfg.srOffset + eaCycles false s.mem s.r m + (widthX s.r).bytes)))
        ending := false } := by
  have h1 : ∀ q b, State.fullMemory { s with r := q, ending := b } := fun _ _ => h
  simp only [ldIdxMem, runMode, runGuest, Exec.bind_apply, fetched_apply, Mode.ea_full (h1 _ _), readR_apply,
    readOperand_full (h1 _ _), modR_apply, setIdx_eq]
  simp only [Regs.fetched_eq_passed, eaOf_passed, eaCycles_passed, Regs.passed_tick, widthX_passed]

theorem cpIdxImm_eq (i : Idx) (v : Word16) (s : State) :
    cpIdxImm i v s =
      .next { s with
        r := compareEffect (widthX s.r) ((widthX s.r).num (i.raw s.r)) ((widthX s.r).num v)
          (s.r.passed (immLength s.r.xf) (immLength s.r.xf))
        ending := false } := by
  simp only [cpIdxImm, runGuest, Exec.bind_apply, fetched_apply, modR_apply, compareAt_eq, Regs.fetched_eq_passed,
    widthX_passed, loadIdx_num, Idx.raw_passed]

theorem cpIdxMem_full (i : Idx) (m : Mode) {s : State} (h : s.fullMemory) :
    cpIdxMem i m s =
      .next { s with
        r := compareEffect (widthX s.r) ((widthX s.r).num (i.raw s.r))
          ((widthX s.r).num (operandAt s.mem (eaOf s.mem s.r m) (widthX s.r)))
          (s.r.passed (m.length s.cfg.srOffset)
            (m.length s.cfg.srOffset + eaCycles false s.mem s.r m + (widthX s.r).bytes))
        ending := false } := by
  have h1 : ∀ q b, State.fullMemory { s with r := q, ending := b } := fun _ _ => h
  simp only [cpIdxMem, runMode, runGuest, Exec.bind_apply, fetched_apply, Mode.ea_full (h1 _ _), readR_apply,
    readOperand_full (h1 _ _), modR_apply, compareAt_eq]
  simp only [Regs.fetched_eq_passed, eaOf_passed, eaCycles_passed, Regs.passed_tick, widthX_passed, loadIdx_passed,
    loadIdx_num]

theorem setIdx_of_num {i : Idx} {v : Word16} {r : Regs} {n : Nat}
    (h : v.toNat % 2 ^ (widthX r).bits = n % 2 ^ (widthX r).bits) :
    setIdx i v r = resultNZ (widthX r) n (resultIdx i (widthX r) n r) := by
  rw [setIdx_eq]
  exact (resultNZ_congr h _).trans (congrArg _ (resultIdx_congr h _))

theorem stepIdx_eq (i : Idx) (up : Bool) (s : State) :
    stepIdx i up s =
      .next { s with
        r :=
          let n := (widthX s.r).num (i.raw s.r) + (if up then 1 else 65535)
          resultNZ (widthX s.r) n (resultIdx i (widthX s.r) n (s.r.passed 1 2))
        ending := false } := by
  simp only [stepIdx, runGuest, Exec.bind_apply, fetched_apply, io_apply, modR_apply, Regs.fetched_tick, loadIdx_passed]
  have hb : (2 : Nat) ^ (widthX s.r).bits ∣ 65536 := by cases widthX s.r <;> decide
  have hx := (loadIdx i s.r).isLt
  have e : ∀ n : Nat, n % 65536 % 2 ^ (widthX s.r).bits = n % 2 ^ (widthX s.r).bits :=
    fun n => Nat.mod_mod_of_dvd n hb
  rw [setIdx_of_num (n := (widthX s.r).num (i.raw s.r) + (if up then 1 else 65535))]
  · rfl
  · rw [widthX_passed, ← loadIdx_toNat]
    cases up
    · simp only [Bool.false_eq_true, if_false, BitVec.toNat_sub, BitVec.toNat_ofNat, Nat.reducePow, Nat.reduceMod]
      rw [e]
      congr 1
      omega
    · simp only [if_true, BitVec.toNat_add, BitVec.toNat_ofNat, Nat.reducePow, Nat.reduceMod]
      rw [e]

/-! ### Implied instructions, pushes, pulls, branches -/

theorem implied_eq (k : Nat) (f : Regs → Regs) (s : State) :
    implied k f s = .next { s with r := f (s.r.passed 1 (1 + k)), ending := false } := by
  simp only [implied, runGuest, Exec.bind_apply, fetched_apply, modR_apply, Regs.fetched_tick]

theorem pushAt_full (width : Regs → Width) (value : Regs → Word16) {s : State} (h : s.fullMemory)
    (hw : ∀ n k, width (s.r.passed n k) = width s.r) (hv : ∀ n k, value (s.r.passed n k) = value s.r) :
    pushAt width value s =
      .next { s with
        r := { s.r.passed 1 (2 + (width s.r).bytes) with s := pushedS s.r.e s.r.s (width s.r).bytes }
        mem := pushedMem s.mem s.r.e s.r.s (pushOrder (width s.r) (value s.r))
        ending := false } := by
  have h1 : ∀ q b, State.fullMemory { s with r := q, ending := b } := fun _ _ => h
  simp only [pushAt, runGuest, Exec.bind_apply, fetched_apply, io_apply, readR_apply, Regs.fetched_tick, hw, hv]
  cases width s.r
  · simp only [push8_full (h1 _ _)]
    simp [Width.bytes, pushOrder, pushedMem, pushedS]
  · simp only [push16_full (h1 _ _)]
    simp [Width.bytes, pushOrder]

theorem pullAt_full (width : Regs → Width) (f : Word16 → Regs → Regs) {s : State} (h : s.fullMemory)
    (hw : ∀ n k, width (s.r.passed n k) = width s.r) :
    pullAt width f s =
      .next { s with
        r := f (pulledValue s.mem s.r.e s.r.s (width s.r))
          { s.r.passed 1 (3 + (width s.r).bytes) with s := pulledS s.r.e s.r.s (width s.r).bytes }
        ending := false } := by
  have h1 : ∀ q b, State.fullMemory { s with r := q, ending := b } := fun _ _ => h
  simp only [pullAt, runGuest, Exec.bind_apply, fetched_apply, readR_apply, modR_apply, Regs.fetched_tick, hw,
    pull8_full (h1 _ _)]
  cases width s.r
  · have hz : ∀ b : Byte, cat16 0x00#8 b = zext16 b := by
      intro b
      apply BitVec.eq_of_toNat_eq
      rw [cat16_toNat, zext16_toNat]
      simp
    simp [Width.bytes, pulledValue, pulledS, hz, pulledByte]
  · simp [pull8_full (h1 _ _), Width.bytes, pulledValue, pulledS, pulledByte, Regs.tick, Regs.passed, BitVec.add_assoc]

theorem stackLock_eq (e : Bool) (v : Word16) : stackLock e v = BitVec.ofNat 16 (if e then 256 + v.toNat % 256 else v.toNat) := by
  cases e
  · simp [stackLock]
  · apply BitVec.eq_of_toNat_eq
    simp [stackLock, cat16_toNat, lo8_toNat]
    omega

theorem stackStep_ne (e : Bool) (sp : Word16) : mkAddr 0x00#8 (stackLock e (sp - 1#16)) ≠ mkAddr 0x00#8 sp := by
  intro h
  have h2 := congrArg BitVec.toNat h
  rw [mkAddr_toNat, mkAddr_toNat, stackLock_eq] at h2
  cases e
  · have := sp.isLt
    simp [BitVec.toNat_sub] at h2
    omega
  · have := sp.isLt
    simp [BitVec.toNat_sub] at h2
    omega

theorem pushedMem_bytes (mem : Memory) (e : Bool) (sp : Word16) (w : Width) (v : Word16) :
    (w = .w8 → stackByte (pushedMem mem e sp (pushOrder w v)) sp = lo8 v) ∧
    (w = .w16 → stackByte (pushedMem mem e sp (pushOrder w v)) sp = hi8 v ∧
      stackByte (pushedMem mem e sp (pushOrder w v)) (pushedS e sp 1) = lo8 v) ∧
    ∀ a, a ∉ pushedAddrs e sp w.bytes → byteAt (pushedMem mem e sp (pushOrder w v)) a = byteAt mem a := by
  have hne := stackStep_ne e sp
  cases w
  · refine ⟨?_, by simp, ?_⟩
    · intro _; simp [pushOrder, pushedMem, stackByte, byteAt_write]
    · intro a ha
      simp [pushedAddrs, Width.bytes] at ha
      simp [pushOrder, pushedMem, byteAt_write, Ne.symm ha]
  · refine ⟨by simp, ?_, ?_⟩
    · intro _; simp [pushOrder, pushedMem, stackByte, byteAt_write, pushedS, hne]
    · intro a ha
      simp [pushedAddrs, Width.bytes] at ha
      simp [pushOrder, pushedMem, byteAt_write, Ne.symm ha.1, Ne.symm ha.2]

/-- PLA, whose accumulator takes each byte as it is pulled, in the form of the other pulls. -/
theorem execPla_full {s : State} (h : s.fullMemory) :
    execPla s =
      .next { s with
        r :=
          let w := widthA s.r
          let v := (pulledValue s.mem s.r.e s.r.s w).toNat
          resultNZ w v (resultA w v { s.r.passed 1 (3 + w.bytes) with s := pulledS s.r.e s.r.s w.bytes })
        ending := false } := by
  have h1 : ∀ q b, State.fullMemory { s with r := q, ending := b } := fun _ _ => h
  simp only [execPla, runGuest, Exec.bind_apply, pullA, fetched_apply, readR_apply, modR_apply, Regs.fetched_tick,
    pull8_full (h1 _ _)]
  have hw : ∀ a s', widthA { (Regs.passed 1 (1+2) s.r).tick 1 with a := a, s := s' } = widthA s.r := fun _ _ => rfl
  have hm : s.r.m = match widthA s.r with | .w8 => true | .w16 => false := by
    unfold widthA widthOf; cases s.r.m <;> rfl
  simp only [hw]
  have ht : ∀ b : Byte, b.toNat < 256 := fun b => b.isLt
  cases hw : widthA s.r
  · simp only [setNZ_eq]
    rw [hw] at hm
    simp [resultA, pulledValue, Width.bytes, pulledS, pulledByte, Regs.tick, Regs.passed, widthA, widthOf, hm, loadA, resultNZ,
      cat16_toNat, zext16_toNat, BitVec.add_assoc, Width.bits]
  · simp only [setNZ_eq, pull8_full (h1 _ _), Exec.bind_apply, modR_apply]
    rw [hw] at hm
    simp [resultA, pulledValue, Width.bytes, pulledS, pulledByte, Regs.tick, Regs.passed, widthA, widthOf, hm, loadA, resultNZ,
      cat16_toNat, BitVec.add_assoc]
    generalize stackByte s.mem (stackLock s.r.e (stackLock s.r.e (s.r.s + 1#16) + 1#16)) = p
    generalize stackByte s.mem (stackLock s.r.e (s.r.s + 1#16)) = q
    have := ht p; have := ht q
    constructor <;> apply BitVec.eq_of_toNat_eq <;> simp only [BitVec.toNat_ofNat] <;> omega

theorem branchTarget_eq (pc : Word16) (d : Byte) : pc + sext16 d = branchTarget pc d := by
  apply BitVec.eq_of_toInt_eq
  unfold branchTarget sext16
  rw [BitVec.toInt_add, BitVec.toInt_signExtend_of_le (by decide), BitVec.toInt_ofInt, BitVec.toInt_eq_toNat_bmod,
    Int.bmod_add_bmod]

theorem branch_eq (cond : Regs → Bool) (d : Byte) (s : State) (hc : ∀ n k, cond (s.r.passed n k) = cond s.r) :
    branch cond d s = .next { s with r := branchEffect (cond s.r) d s.r, ending := true } := by
  have hne : ∀ a b : Word16, (hi8 a != hi8 b) = (a.toNat / 256 != b.toNat / 256) := by
    intro a b
    rw [← hi8_toNat, ← hi8_toNat, Bool.eq_iff_iff]
    simp [BitVec.toNat_eq]
  simp only [branch, runGuest, Exec.bind_apply, fetched_apply, readR_apply, Regs.fetched_eq_passed, hc]
  cases hcond : cond s.r
  · simp [branchEffect, Regs.passed]
  · simp only [if_true, Exec.bind_apply, io_apply, branchTarget_eq, hne]
    have hp : ∀ k, (s.r.passed 2 k).pc = s.r.pc + 2#16 := fun _ => rfl
    have he : ∀ k, (s.r.passed 2 k).e = s.r.e := fun _ => rfl
    simp only [branchEffect, hp, he, if_true]
    generalize s.r.pc + 2#16 = next
    generalize branchTarget next d = target
    cases (s.r.e && (target.toNat / 256 != next.toNat / 256))
    · simp [Regs.passed, Regs.tick, bit, BitVec.add_assoc]
    · simp [Regs.passed, Regs.tick, bit, BitVec.add_assoc]

/-! ### Jumps, calls and returns -/

theorem jumpIndirect_full (a : Word16) {s : State} (h : s.fullMemory) :
    execJmpAbsInd a s =
      .next { s with r := { s.r.passed 3 5 with pc := ptr16At s.mem s.r.e a }, ending := true } := by
  have h1 : ∀ q b, State.fullMemory { s with r := q, ending := b } := fun _ _ => h
  simp [execJmpAbsInd, runGuest, jumpIndirect, jumpTo, readPtr16_full (h1 _ _), Regs.fetched_eq_passed]

theorem callSubroutine_full (a : Word16) {s : State} (h : s.fullMemory) :
    execJsrAbs a s =
      .next { s with
        r := { s.r.passed 3 6 with pc := a, s := pushedS s.r.e s.r.s 2 }
        mem := pushedMem s.mem s.r.e s.r.s [hi8 (s.r.pc + 2#16), lo8 (s.r.pc + 2#16)]
        ending := true } := by
  have h1 : ∀ q b, State.fullMemory { s with r := q, ending := b } := fun _ _ => h
  have hp : s.r.pc + 3#16 - 1#16 = s.r.pc + 2#16 := by bv_omega
  simp [execJsrAbs, runGuest, callSubroutine, jumpTo, push16_full (h1 _ _), Regs.fetched_eq_passed, Regs.passed, Regs.tick,
    hp, BitVec.add_assoc]

theorem returnSubroutine_full {s : State} (h : s.fullMemory) :
    execRts s =
      .next { s with
        r := { s.r.passed 1 6 with
          pc := cat16 (pulledByte s.mem s.r.e s.r.s 2) (pulledByte s.mem s.r.e s.r.s 1) + 1#16
          s := pulledS s.r.e s.r.s 2 }
        ending := true } := by
  have h1 : ∀ q b, State.fullMemory { s with r := q, ending := b } := fun _ _ => h
  simp [execRts, runGuest, returnSubroutine, jumpTo, pull16_full (h1 _ _), Regs.fetched_eq_passed, Regs.passed, Regs.tick,
    BitVec.add_assoc]

theorem returnInterrupt_full {s : State} (h : s.fullMemory) :
    execRti s =
      .next { s with
        r := { unpackFlags (pulledByte s.mem s.r.e s.r.s 1) s.r with
          pc := cat16 (pulledByte s.mem s.r.e s.r.s 3) (pulledByte s.mem s.r.e s.r.s 2)
          pbr := if s.r.e then s.r.pbr else pulledByte s.mem s.r.e s.r.s 4
          s := pulledS s.r.e s.r.s (if s.r.e then 3 else 4)
          cycle := s.r.cycle + (if s.r.e then 6#64 else 7#64) }
        ending := true } := by
  have h1 : ∀ q b, State.fullMemory { s with r := q, ending := b } := fun _ _ => h
  have hu : ∀ p (q : Regs), (unpackFlags p q).e = q.e := fun _ _ => rfl
  have hs : ∀ p (q : Regs), (unpackFlags p q).s = q.s := fun _ _ => rfl
  simp only [execRti, runGuest, returnInterrupt, jumpTo, Exec.bind_apply, fetched_apply, modR_apply, readR_apply,
    pull8_full (h1 _ _), pull16_full (h1 _ _), Regs.fetched_eq_passed]
  cases he : s.r.e
  · simp [he, Regs.passed, Regs.tick, unpackFlags, pulledByte, pulledS, pull8_full (h1 _ _), BitVec.add_assoc]
  · simp [he, Regs.passed, Regs.tick, unpackFlags, pulledByte, pulledS, BitVec.add_assoc]

end Sys2Proof.Machine
end

