-- ==== Sys2Proof/Laws/OutOfRange.lean ====
section
/-! SUPPORT. Accesses at or above P_MEM_BYTES (R504, R505): what each primitive answers when its address is in range and when it is
not, and how a trail of accesses stops at the first one out of range. -/

namespace Sys2Proof.Machine

/-! ### The primitives -/

theorem memRead_in {s : State} {a : Addr} (h : a.toNat < s.cfg.memBytes) :
    memRead a s = .ok (byteAt s.mem a) { s with r := s.r.tick 1 } := by
  simp [memRead, byteAt, h]

theorem memRead_out {s : State} {a : Addr} (h : s.cfg.memBytes ≤ a.toNat) :
    memRead a s = .error (.outOfRangeMemory a .read s) s := by
  simp [memRead, Nat.not_lt.mpr h]

theorem memWrite_in {s : State} {a : Addr} (v : Byte) (h : a.toNat < s.cfg.memBytes) :
    memWrite a v s = .ok () { s with mem := Memory.write s.mem a.toNat v, r := s.r.tick 1 } := by
  simp [memWrite, h]

theorem memWrite_out {s : State} {a : Addr} (v : Byte) (h : s.cfg.memBytes ≤ a.toNat) :
    memWrite a v s = .error (.outOfRangeMemory a .write s) s := by
  simp [memWrite, Nat.not_lt.mpr h]

/-- A meaning whose rule faults ends in that fault. -/
theorem runGuest_error {n : Nat} {body : Exec Unit} {s t : State} {f : Fault}
    (h : body { s with r := s.r.fetched n, ending := false } = .error f t) : runGuest n body s = .fault f := by
  simp [runGuest, h]

/-! ### Trails -/

theorem State.firstOut_nil (s : State) : s.firstOut [] = none := rfl

/-- The first access of a trail is the one out of range, or it is in range and the rest decides. -/
theorem State.firstOut_cons {s : State} {k q : Nat} {a b : Addr} {rest : List (Nat × Addr)}
    (h : s.firstOut ((k, a) :: rest) = some (q, b)) :
    (s.cfg.memBytes ≤ a.toNat ∧ q = k ∧ b = a) ∨ (a.toNat < s.cfg.memBytes ∧ s.firstOut rest = some (q, b)) := by
  unfold State.firstOut at h
  rw [List.find?_cons] at h
  by_cases ha : s.cfg.memBytes ≤ a.toNat
  · simp only [ha, decide_true] at h
    cases h
    exact .inl ⟨ha, rfl, rfl⟩
  · simp only [ha, decide_false] at h
    exact .inr ⟨Nat.not_le.mp ha, h⟩

theorem State.firstOut_cons_none {s : State} {k : Nat} {a : Addr} {rest : List (Nat × Addr)}
    (h : s.firstOut ((k, a) :: rest) = none) : a.toNat < s.cfg.memBytes ∧ s.firstOut rest = none := by
  unfold State.firstOut at h
  rw [List.find?_cons] at h
  by_cases ha : s.cfg.memBytes ≤ a.toNat
  · simp [ha] at h
  · simp only [ha, decide_false] at h
    exact ⟨Nat.not_le.mp ha, h⟩

theorem State.firstOut_append {s : State} {front rest : List (Nat × Addr)} {p : Nat × Addr}
    (h : s.firstOut (front ++ rest) = some p) :
    s.firstOut front = some p ∨ (s.firstOut front = none ∧ s.firstOut rest = some p) := by
  unfold State.firstOut at *
  rw [List.find?_append] at h
  cases hf : front.find? (fun p => decide (s.cfg.memBytes ≤ p.2.toNat)) with
  | some q =>
    rw [hf] at h
    exact .inl h
  | none =>
    rw [hf] at h
    exact .inr ⟨rfl, h⟩

/-- A trail depends on the parameters alone. -/
theorem State.firstOut_cfg {s t : State} (h : t.cfg = s.cfg) (l : List (Nat × Addr)) : t.firstOut l = s.firstOut l := by
  unfold State.firstOut
  rw [h]

@[simp] theorem ptrTrail_fetched (n : Nat) (r : Regs) (m : Mode) : ptrTrail (r.fetched n) m = ptrTrail r m := by
  cases m <;> simp [ptrTrail, dpCycles]

/-! ### Addressing modes and operands -/

theorem readPtr16_in {s : State} {p : Word16} (h0 : (mkAddr 0x00#8 p).toNat < s.cfg.memBytes)
    (h1 : (mkAddr 0x00#8 (wrapAdd p 1#16 s.r.e)).toNat < s.cfg.memBytes) :
    readPtr16 p s = .ok (ptr16At s.mem s.r.e p) { s with r := s.r.tick 2 } := by
  have hk : ∀ q a, a.toNat < s.cfg.memBytes →
      memRead a { s with r := q } = .ok (byteAt s.mem a) { s with r := q.tick 1 } := fun q a h => memRead_in h
  simp [readPtr16, ptr16At, memRead_in h0, hk _ _ h1]

theorem readPtr16_out0 {s : State} {p : Word16} (h : s.cfg.memBytes ≤ (mkAddr 0x00#8 p).toNat) :
    readPtr16 p s = .error (.outOfRangeMemory (mkAddr 0x00#8 p) .read s) s := by
  simp [readPtr16, memRead_out h]

theorem readPtr16_out1 {s : State} {p : Word16} (h0 : (mkAddr 0x00#8 p).toNat < s.cfg.memBytes)
    (h1 : s.cfg.memBytes ≤ (mkAddr 0x00#8 (wrapAdd p 1#16 s.r.e)).toNat) :
    readPtr16 p s =
      .error (.outOfRangeMemory (mkAddr 0x00#8 (wrapAdd p 1#16 s.r.e)) .read { s with r := s.r.tick 1 })
        { s with r := s.r.tick 1 } := by
  have hk : ∀ q a, s.cfg.memBytes ≤ a.toNat →
      memRead a { s with r := q } = .error (.outOfRangeMemory a .read { s with r := q }) { s with r := q } :=
    fun q a h => memRead_out h
  simp [readPtr16, memRead_in h0, hk _ _ h1]

/-- A mode whose pointer bytes are all in range forms its address as in full memory. -/
theorem Mode.ea_in {s : State} (st : Bool) (m : Mode) (h : s.firstOut (ptrTrail s.r m) = none) :
    m.ea st s = .ok (eaOf s.mem s.r m) { s with r := s.r.tick (eaCycles st s.mem s.r m) } := by
  have hp : ∀ k p, (mkAddr 0x00#8 p).toNat < s.cfg.memBytes →
      (mkAddr 0x00#8 (wrapAdd p 1#16 s.r.e)).toNat < s.cfg.memBytes →
      readPtr16 p { s with r := s.r.tick k } = .ok (ptr16At s.mem s.r.e p) { s with r := s.r.tick (k + 2) } := by
    intro k p h0 h1
    have := readPtr16_in (s := { s with r := s.r.tick k }) h0 h1
    simpa using this
  have hk : ∀ k a, a.toNat < s.cfg.memBytes →
      memRead a { s with r := s.r.tick k } = .ok (byteAt s.mem a) { s with r := s.r.tick (k + 1) } := by
    intro k a h0
    have := memRead_in (s := { s with r := s.r.tick k }) h0
    simpa using this
  cases m with
  | ind d | indX d | indY d =>
    obtain ⟨h0, h⟩ := State.firstOut_cons_none h
    obtain ⟨h1, -⟩ := State.firstOut_cons_none h
    simp [Mode.ea, eaOf, eaCycles, directBase_apply, hp _ _ h0 h1, indexPenalty_apply, indexCycles]
  | indLong d =>
    obtain ⟨h0, h⟩ := State.firstOut_cons_none h
    obtain ⟨h1, h⟩ := State.firstOut_cons_none h
    obtain ⟨h2, -⟩ := State.firstOut_cons_none h
    simp [Mode.ea, eaOf, eaCycles, directBase_apply, readPtr24, ptr24At, hp _ _ h0 h1, hk _ _ h2]
  | dir d | dirX d | dirY d | sr off | abs a | absX a | absY a | long a | longX a =>
    simp [Mode.ea, eaOf, eaCycles, directBase_apply, indexPenalty_apply, indexCycles, Regs.tick_zero]

/-- A mode stops at its first pointer byte out of range, with the cycles before it counted. -/
theorem Mode.ea_out {s : State} (st : Bool) (m : Mode) {k : Nat} {a : Addr}
    (h : s.firstOut (ptrTrail s.r m) = some (k, a)) :
    m.ea st s = .error (.outOfRangeMemory a .read { s with r := s.r.tick k }) { s with r := s.r.tick k } := by
  have hi : ∀ q a, a.toNat < s.cfg.memBytes →
      memRead a { s with r := s.r.tick q } = .ok (byteAt s.mem a) { s with r := s.r.tick (q + 1) } := by
    intro q a h0
    have := memRead_in (s := { s with r := s.r.tick q }) h0
    simpa using this
  have ho : ∀ q a, s.cfg.memBytes ≤ a.toNat →
      memRead a { s with r := s.r.tick q } =
        .error (.outOfRangeMemory a .read { s with r := s.r.tick q }) { s with r := s.r.tick q } :=
    fun q a h0 => memRead_out h0
  cases m with
  | ind d | indX d | indY d =>
    obtain ⟨h0, rfl, rfl⟩ | ⟨h0, h⟩ := State.firstOut_cons h
    · simp [Mode.ea, directBase_apply, readPtr16, ho _ _ h0]
    · obtain ⟨h1, rfl, rfl⟩ | ⟨-, h⟩ := State.firstOut_cons h
      · simp [Mode.ea, directBase_apply, readPtr16, hi _ _ h0, ho _ _ h1]
      · cases h
  | indLong d =>
    obtain ⟨h0, rfl, rfl⟩ | ⟨h0, h⟩ := State.firstOut_cons h
    · simp [Mode.ea, directBase_apply, readPtr24, readPtr16, ho _ _ h0]
    · obtain ⟨h1, rfl, rfl⟩ | ⟨h1, h⟩ := State.firstOut_cons h
      · simp [Mode.ea, directBase_apply, readPtr24, readPtr16, hi _ _ h0, ho _ _ h1]
      · obtain ⟨h2, rfl, rfl⟩ | ⟨-, h⟩ := State.firstOut_cons h
        · simp [Mode.ea, directBase_apply, readPtr24, readPtr16, hi _ _ h0, hi _ _ h1, ho _ _ h2]
        · cases h
  | dir d | dirX d | dirY d | sr off | abs a | absX a | absY a | long a | longX a => cases h

/-- An operand read stops at its first byte out of range. -/
theorem readOperand_out {s : State} {ea : Ea} {w : Width} {q k : Nat} {a : Addr}
    (h : s.firstOut (dataTrail ea w q) = some (k, a)) :
    ∃ j, k = q + j ∧
      readOperand ea w s = .error (.outOfRangeMemory a .read { s with r := s.r.tick j }) { s with r := s.r.tick j } := by
  have ho : ∀ a, s.cfg.memBytes ≤ a.toNat →
      memRead a { s with r := s.r.tick 1 } =
        .error (.outOfRangeMemory a .read { s with r := s.r.tick 1 }) { s with r := s.r.tick 1 } :=
    fun a h0 => memRead_out h0
  cases w with
  | w8 =>
    obtain ⟨h0, rfl, rfl⟩ | ⟨-, h⟩ := State.firstOut_cons h
    · exact ⟨0, rfl, by simp [readOperand, memRead_out h0, Regs.tick_zero]⟩
    · cases h
  | w16 =>
    obtain ⟨h0, rfl, rfl⟩ | ⟨h0, h⟩ := State.firstOut_cons h
    · exact ⟨0, rfl, by simp [readOperand, memRead_out h0, Regs.tick_zero]⟩
    · obtain ⟨h1, rfl, rfl⟩ | ⟨-, h⟩ := State.firstOut_cons h
      · exact ⟨1, rfl, by simp [readOperand, memRead_in h0, ho _ h1]⟩
      · cases h

/-- Whatever a memory form does with its address, it stops at the first pointer byte out of range. -/
theorem runMode_ptr_out (st : Bool) (m : Mode) (rest : Ea → Exec Unit) {s : State} {k : Nat} {a : Addr}
    (h : s.firstOut (ptrTrail s.r m) = some (k, a)) :
    runMode m (do
      let ea ← m.ea st
      rest ea) s =
      .fault (.outOfRangeMemory a .read
        { s with r := s.r.passed (m.length s.cfg.srOffset) (m.length s.cfg.srOffset + k), ending := false }) := by
  have hs : ∀ q l, State.firstOut { s with r := q, ending := false } l = s.firstOut l := fun _ l => State.firstOut_cfg rfl l
  have e := Mode.ea_out (s := { s with r := s.r.fetched (m.length s.cfg.srOffset), ending := false }) st m
    (k := k) (a := a) (by rw [hs, ptrTrail_fetched]; exact h)
  simp only [Regs.fetched_eq_passed, Regs.passed_tick] at e
  refine runGuest_error (t := { s with
    r := s.r.passed (m.length s.cfg.srOffset) (m.length s.cfg.srOffset + k), ending := false }) ?_
  simp only [Regs.fetched_eq_passed, Exec.bind_apply, e]

/-- With its pointer bytes in range, a memory form goes on from its effective address. -/
theorem runMode_ptr_in (st : Bool) (m : Mode) (rest : Ea → Exec Unit) {s t : State} {f : Fault}
    (h : s.firstOut (ptrTrail s.r m) = none)
    (e : rest (eaOf s.mem s.r m)
        { s with
          r := s.r.passed (m.length s.cfg.srOffset) (m.length s.cfg.srOffset + eaCycles st s.mem s.r m), ending := false } =
      .error f t) :
    runMode m (do
      let ea ← m.ea st
      rest ea) s = .fault f := by
  have hs : ∀ q l, State.firstOut { s with r := q, ending := false } l = s.firstOut l := fun _ l => State.firstOut_cfg rfl l
  have ha := Mode.ea_in (s := { s with r := s.r.fetched (m.length s.cfg.srOffset), ending := false }) st m
    (by rw [hs, ptrTrail_fetched]; exact h)
  simp only [Regs.fetched_eq_passed, eaOf_passed, eaCycles_passed, Regs.passed_tick] at ha
  refine runGuest_error (t := t) ?_
  simp only [Regs.fetched_eq_passed, Exec.bind_apply, ha]
  exact e

/-- A memory form that reads: it stops at the first byte of its trail that is out of range, whatever it does with the
operand. -/
theorem readForm_out (st : Bool) (m : Mode) (width : Regs → Width) (rest : Ea → Regs → Word16 → Exec Unit) {s : State}
    {k : Nat} {a : Addr} (hw : ∀ n q, width (s.r.passed n q) = width s.r)
    (h : s.firstOut (readTrail st s.mem s.r m (width s.r)) = some (k, a)) :
    runMode m (do
      let ea ← m.ea st
      let r ← readR
      let v ← readOperand ea (width r)
      rest ea r v) s =
      .fault (.outOfRangeMemory a .read
        { s with r := s.r.passed (m.length s.cfg.srOffset) (m.length s.cfg.srOffset + k), ending := false }) := by
  have hs : ∀ q l, State.firstOut { s with r := q, ending := false } l = s.firstOut l := fun _ l => State.firstOut_cfg rfl l
  rcases State.firstOut_append h with hp | ⟨hp, hd⟩
  · exact runMode_ptr_out st m _ hp
  · obtain ⟨j, rfl, ho⟩ := readOperand_out
      (s := { s with
        r := s.r.passed (m.length s.cfg.srOffset) (m.length s.cfg.srOffset + eaCycles st s.mem s.r m), ending := false })
      (by rw [hs]; exact hd)
    refine runMode_ptr_in (t := { s with
      r := s.r.passed (m.length s.cfg.srOffset) (m.length s.cfg.srOffset + (eaCycles st s.mem s.r m + j)),
      ending := false }) st m _ hp ?_
    simp only [Exec.bind_apply, readR_apply, hw, ho, Regs.passed_tick, Nat.add_assoc]

/-- A store stops at its low byte, or at its high byte with the low one written. -/
theorem storeMem_out (width : Regs → Width) (value : Regs → Word16) (m : Mode) {s : State}
    (hw : ∀ n k, width (s.r.passed n k) = width s.r) (hv : ∀ n k, value (s.r.passed n k) = value s.r)
    (h : s.firstOut (ptrTrail s.r m) = none) :
    let n := m.length s.cfg.srOffset
    let ea := eaOf s.mem s.r m
    let q := n + eaCycles true s.mem s.r m
    (s.cfg.memBytes ≤ ea.addr.toNat →
      storeMem width value m s =
        .fault (.outOfRangeMemory ea.addr .write { s with r := s.r.passed n q, ending := false })) ∧
    (ea.addr.toNat < s.cfg.memBytes → width s.r = .w16 → s.cfg.memBytes ≤ ea.hi.toNat →
      storeMem width value m s =
        .fault (.outOfRangeMemory ea.hi .write
          { s with
            r := s.r.passed n (q + 1)
            mem := Memory.write s.mem ea.addr.toNat (lo8 (value s.r))
            ending := false })) := by
  have ho : ∀ t a v, t.cfg = s.cfg → s.cfg.memBytes ≤ a.toNat →
      memWrite a v t = .error (.outOfRangeMemory a .write t) t :=
    fun t a v ht h0 => memWrite_out v (by rw [ht]; exact h0)
  have hi : ∀ t a v, t.cfg = s.cfg → a.toNat < s.cfg.memBytes →
      memWrite a v t = .ok () { t with mem := Memory.write t.mem a.toNat v, r := t.r.tick 1 } :=
    fun t a v ht h0 => memWrite_in v (by rw [ht]; exact h0)
  refine ⟨fun h0 => runMode_ptr_in (t := { s with
      r := s.r.passed (m.length s.cfg.srOffset) (m.length s.cfg.srOffset + eaCycles true s.mem s.r m),
      ending := false }) true m _ h ?_, fun h0 h16 h1 => runMode_ptr_in (t := { s with
      r := s.r.passed (m.length s.cfg.srOffset) (m.length s.cfg.srOffset + eaCycles true s.mem s.r m + 1),
      mem := Memory.write s.mem (eaOf s.mem s.r m).addr.toNat (lo8 (value s.r)), ending := false }) true m _ h ?_⟩
  · simp only [Exec.bind_apply, readR_apply, writeOperand, ho { s with r := _, ending := false } _ _ rfl h0]
  · simp only [Exec.bind_apply, readR_apply, writeOperand, hw, hv, h16,
      hi { s with r := _, ending := false } _ _ rfl h0, ho { s with r := _, mem := _, ending := false } _ _ rfl h1,
      Regs.passed_tick]

/-! ### The stack -/

theorem push8_in {s : State} (v : Byte) (h : (mkAddr 0x00#8 s.r.s).toNat < s.cfg.memBytes) :
    push8 v s =
      .ok () { s with
        mem := Memory.write s.mem (mkAddr 0x00#8 s.r.s).toNat v
        r := { s.r.tick 1 with s := stackLock s.r.e (s.r.s - 1#16) } } := by
  simp [push8, memWrite_in v h, modifyStack_eq]

theorem push8_out {s : State} (v : Byte) (h : s.cfg.memBytes ≤ (mkAddr 0x00#8 s.r.s).toNat) :
    push8 v s = .error (.outOfRangeMemory (mkAddr 0x00#8 s.r.s) .write s) s := by
  simp [push8, memWrite_out v h]

theorem pull8_in {s : State} (h : (mkAddr 0x00#8 (stackLock s.r.e (s.r.s + 1#16))).toNat < s.cfg.memBytes) :
    pull8 s =
      .ok (stackByte s.mem (stackLock s.r.e (s.r.s + 1#16)))
        { s with r := { s.r.tick 1 with s := stackLock s.r.e (s.r.s + 1#16) } } := by
  have := memRead_in (s := { s with r := modifyStack true s.r }) (a := mkAddr 0x00#8 (modifyStack true s.r).s) h
  simp only [pull8, Exec.bind_apply, modR_apply, readR_apply, this]
  rfl

/-- A pull that stops has stepped S. -/
theorem pull8_out {s : State} (h : s.cfg.memBytes ≤ (mkAddr 0x00#8 (stackLock s.r.e (s.r.s + 1#16))).toNat) :
    pull8 s =
      .error (.outOfRangeMemory (mkAddr 0x00#8 (stackLock s.r.e (s.r.s + 1#16))) .read
          { s with r := { s.r with s := stackLock s.r.e (s.r.s + 1#16) } })
        { s with r := { s.r with s := stackLock s.r.e (s.r.s + 1#16) } } := by
  have := memRead_out (s := { s with r := modifyStack true s.r }) (a := mkAddr 0x00#8 (modifyStack true s.r).s) h
  simp only [pull8, Exec.bind_apply, modR_apply, readR_apply, this]
  rfl

/-- A push stops at its `k`-th byte, counted from 0, with the bytes before it pushed. -/
theorem pushAt_out (width : Regs → Width) (value : Regs → Word16) {s : State} {k : Nat}
    (hw : ∀ n k, width (s.r.passed n k) = width s.r) (hv : ∀ n k, value (s.r.passed n k) = value s.r)
    (hk : k < (width s.r).bytes)
    (hi : ∀ j, j < k → (mkAddr 0x00#8 (pushedS s.r.e s.r.s j)).toNat < s.cfg.memBytes)
    (ho : s.cfg.memBytes ≤ (mkAddr 0x00#8 (pushedS s.r.e s.r.s k)).toNat) :
    pushAt width value s = .fault (.outOfRangeMemory (mkAddr 0x00#8 (pushedS s.r.e s.r.s k)) .write
        { s with
          r := { s.r.passed 1 (1 + 1 + k) with s := pushedS s.r.e s.r.s k }
          mem := pushedMem s.mem s.r.e s.r.s ((pushOrder (width s.r) (value s.r)).take k)
          ending := false }) := by
  have h2 : k = 0 ∨ (k = 1 ∧ width s.r = .w16) := by
    cases hq : width s.r <;> rw [hq] at hk <;> simp only [Width.bytes] at hk <;> simp <;> omega
  have ho' := Nat.not_lt.mpr ho
  rcases h2 with rfl | ⟨rfl, h16⟩
  · simp only [pushedS] at ho'
    simp only [pushAt, runGuest, Exec.bind_apply, fetched_apply, io_apply, readR_apply, Regs.fetched_tick, hw, hv]
    cases width s.r <;> simp [push8, push16, memWrite, ho', pushedS, pushedMem, Regs.passed]
  · have h0 := hi 0 (by omega)
    simp only [pushedS] at ho' h0
    simp only [pushAt, runGuest, Exec.bind_apply, fetched_apply, io_apply, readR_apply, Regs.fetched_tick, hw, hv, h16]
    simp [push8, push16, memWrite, modifyStack_eq, h0, ho', pushedS, pushedMem, pushOrder, Regs.passed, Regs.tick,
      BitVec.add_assoc]

/-- A pull stops at its `k`-th byte, counted from 0, with S stepped for it. -/
theorem pullAt_out (width : Regs → Width) (f : Word16 → Regs → Regs) {s : State} {k : Nat}
    (hw : ∀ n k, width (s.r.passed n k) = width s.r)
    (hk : k < (width s.r).bytes)
    (hi : ∀ j, j < k → (mkAddr 0x00#8 (pulledS s.r.e s.r.s (j + 1))).toNat < s.cfg.memBytes)
    (ho : s.cfg.memBytes ≤ (mkAddr 0x00#8 (pulledS s.r.e s.r.s (k + 1))).toNat) :
    pullAt width f s = .fault (.outOfRangeMemory (mkAddr 0x00#8 (pulledS s.r.e s.r.s (k + 1))) .read
        { s with r := { s.r.passed 1 (3 + k) with s := pulledS s.r.e s.r.s (k + 1) }, ending := false }) := by
  have h2 : k = 0 ∨ (k = 1 ∧ width s.r = .w16) := by
    cases hq : width s.r <;> rw [hq] at hk <;> simp only [Width.bytes] at hk <;> simp <;> omega
  have ho' := Nat.not_lt.mpr ho
  rcases h2 with rfl | ⟨rfl, h16⟩
  · simp only [pulledS] at ho'
    simp only [pullAt, runGuest, Exec.bind_apply, fetched_apply, readR_apply, modR_apply, Regs.fetched_tick, hw]
    simp [pull8, memRead, modifyStack_eq, ho', pulledS, Regs.passed]
  · have h0 := hi 0 (by omega)
    simp only [pulledS] at ho' h0
    simp only [pullAt, runGuest, Exec.bind_apply, fetched_apply, readR_apply, modR_apply, Regs.fetched_tick, hw, h16]
    simp [pull8, memRead, modifyStack_eq, h0, ho', pulledS, Regs.passed, Regs.tick, BitVec.add_assoc]

/-! ### Fetches -/

/-- Fetching stops at the first byte out of range, counted from 0, with the bytes before it fetched. -/
theorem fetchBytes_out {n k : Nat} {s : State} (hk : k < n)
    (hi : ∀ j, j < k → (mkAddr s.r.pbr (s.r.pc + BitVec.ofNat 16 j)).toNat < s.cfg.memBytes)
    (ho : s.cfg.memBytes ≤ (mkAddr s.r.pbr (s.r.pc + BitVec.ofNat 16 k)).toNat) :
    fetchBytes n s =
      .error (.outOfRangeMemory (mkAddr s.r.pbr (s.r.pc + BitVec.ofNat 16 k)) .read { s with r := s.r.passed k k })
        { s with r := s.r.passed k k } := by
  have hs : ∀ (p : Word16) j, p + BitVec.ofNat 16 (j + 1) = p + 1#16 + BitVec.ofNat 16 j := by
    intro p j
    rw [Nat.add_comm j 1, BitVec.ofNat_add, ← BitVec.add_assoc]
  induction n generalizing k s with
  | zero => omega
  | succ n ih =>
    cases k with
    | zero =>
      rw [BitVec.add_zero] at ho ⊢
      have hp : s.r.passed 0 0 = s.r := by simp [Regs.passed]
      rw [hp]
      simp [fetchBytes, fetchPC, memRead_out ho]
    | succ k =>
      have h0 := hi 0 (by omega)
      rw [BitVec.add_zero] at h0
      rw [hs] at ho
      have hp : Regs.passed k k { s.r.tick 1 with pc := s.r.pc + 1#16 } = s.r.passed (k + 1) (k + 1) := by
        have hc : s.r.cycle + BitVec.ofNat 64 (k + 1) = s.r.cycle + 1#64 + BitVec.ofNat 64 k := by
          rw [Nat.add_comm k 1, BitVec.ofNat_add, ← BitVec.add_assoc]
        simp only [Regs.passed, Regs.tick, hs s.r.pc k, hc]
      have e := ih (k := k) (s := { s with r := { s.r.tick 1 with pc := s.r.pc + 1#16 } }) (by omega)
        (fun j hj => by have := hi (j + 1) (by omega); rw [hs] at this; exact this) ho
      rw [hp] at e
      rw [hs]
      simp only [fetchBytes, Exec.bind_apply, fetchPC_inRange h0, e]
      rfl

/-- A step whose instruction has a byte beyond its opcode out of range stops at the first such byte. -/
theorem fetchInstr_out {k : Nat} {s : State} (h1 : 0 < k)
    (hk : k < instrLength s.ctx (byteAt s.mem (mkAddr s.r.pbr s.r.pc)))
    (hi : ∀ j, j < k → (mkAddr s.r.pbr (s.r.pc + BitVec.ofNat 16 j)).toNat < s.cfg.memBytes)
    (ho : s.cfg.memBytes ≤ (mkAddr s.r.pbr (s.r.pc + BitVec.ofNat 16 k)).toNat) :
    fetchInstr s =
      .error
        (.outOfRangeMemory (mkAddr s.r.pbr (s.r.pc + BitVec.ofNat 16 k)) .read
          { s with r := s.r.passed k k, ending := false })
        { s with r := s.r.passed k k, ending := false } := by
  have h0 := hi 0 h1
  rw [BitVec.add_zero] at h0
  have e := fetchBytes_out (s := { s with ending := false }) hk hi ho
  simp only [fetchInstr, Exec.bind_apply, liftRead, h0, if_true]
  exact e

/-! ### Wide accesses of the IR -/

/-- The addresses of a wide access, one byte further. -/
theorem addr_succ (a : Addr) (j : Nat) : a + BitVec.ofNat 24 (j + 1) = a + 1#24 + BitVec.ofNat 24 j := by
  rw [Nat.add_comm j 1, BitVec.ofNat_add, ← BitVec.add_assoc]

/-- A wide load stops at its first byte out of range. -/
theorem loadBytes_out {n k : Nat} {a : Addr} {s : State} (hk : k < n)
    (hi : ∀ j, j < k → (a + BitVec.ofNat 24 j).toNat < s.cfg.memBytes)
    (ho : s.cfg.memBytes ≤ (a + BitVec.ofNat 24 k).toNat) :
    loadBytes a n s = .error (.outOfRangeMemory (a + BitVec.ofNat 24 k) .read s) s := by
  induction n generalizing a k with
  | zero => omega
  | succ n ih =>
    cases k with
    | zero =>
      rw [BitVec.add_zero] at ho ⊢
      simp [loadBytes, Nat.not_lt.mpr ho]
    | succ k =>
      have h0 := hi 0 (by omega)
      rw [BitVec.add_zero] at h0
      rw [addr_succ] at ho ⊢
      have := ih (a := a + 1#24) (k := k) (by omega) (fun j hj => by rw [← addr_succ]; exact hi (j + 1) (by omega)) ho
      simp [loadBytes, h0, this]

/-- A wide store stops at its first byte out of range, with the bytes below it written. -/
theorem storeBytes_out {n k v : Nat} {a : Addr} {s : State} (hk : k < n)
    (hi : ∀ j, j < k → (a + BitVec.ofNat 24 j).toNat < s.cfg.memBytes)
    (ho : s.cfg.memBytes ≤ (a + BitVec.ofNat 24 k).toNat) :
    storeBytes a v n s =
      .error (.outOfRangeMemory (a + BitVec.ofNat 24 k) .write { s with mem := storedLittle s.mem a v k })
        { s with mem := storedLittle s.mem a v k } := by
  induction n generalizing a k v s with
  | zero => omega
  | succ n ih =>
    cases k with
    | zero =>
      rw [BitVec.add_zero] at ho ⊢
      simp [storeBytes, Nat.not_lt.mpr ho, storedLittle]
    | succ k =>
      have h0 := hi 0 (by omega)
      rw [BitVec.add_zero] at h0
      rw [addr_succ] at ho ⊢
      have := ih (a := a + 1#24) (k := k) (v := v / 256)
        (s := { s with mem := Memory.write s.mem a.toNat (BitVec.ofNat 8 v) }) (by omega)
        (fun j hj => by rw [← addr_succ]; exact hi (j + 1) (by omega)) ho
      simp [storeBytes, h0, this, storedLittle_succ]

end Sys2Proof.Machine
end

