-- ==== Sys2Proof/Laws/Range.lean ====
section
/-! SUPPORT. The bounds check decides only whether an access happens: a computation that goes on does the same in a machine where
every address is in range. So each closed form of Laws/Meanings.lean also says what holds of any next state. -/

namespace Sys2Proof.Machine

/-- The same state with every 24-bit address in range. -/
def State.widen (s : State) : State := { s with cfg := { s.cfg with memBytes := 2 ^ 24 } }

theorem State.widen_full (s : State) : s.widen.fullMemory := Nat.le_refl _

@[simp] theorem State.widen_r (s : State) : s.widen.r = s.r := rfl
@[simp] theorem State.widen_mem (s : State) : s.widen.mem = s.mem := rfl
@[simp] theorem State.widen_aux (s : State) : s.widen.aux = s.aux := rfl
@[simp] theorem State.widen_arena (s : State) : s.widen.arena = s.arena := rfl
@[simp] theorem State.widen_vals (s : State) : s.widen.vals = s.vals := rfl
@[simp] theorem State.widen_em (s : State) : s.widen.em = s.em := rfl
@[simp] theorem State.widen_ending (s : State) : s.widen.ending = s.ending := rfl
@[simp] theorem State.widen_srOffset (s : State) : s.widen.cfg.srOffset = s.cfg.srOffset := rfl

theorem State.widen_inj {s t : State} (h : s.widen = t.widen) (hc : s.cfg = t.cfg) : s = t := by
  obtain ⟨c, r, m, x, a, v, e, d⟩ := s
  obtain ⟨c', r', m', x', a', v', e', d'⟩ := t
  simp only [State.widen, State.mk.injEq] at *
  exact ⟨hc, h.2⟩

/-- A computation whose completed runs keep the parameters and are those of the wide machine. -/
def Exec.Wide {α : Type} (x : Exec α) : Prop :=
  ∀ s a t, x s = .ok a t → t.cfg = s.cfg ∧ x s.widen = .ok a t.widen

theorem Wide.bind {α β : Type} {x : Exec α} {f : α → Exec β} (hx : x.Wide) (hf : ∀ a, (f a).Wide) : (x >>= f).Wide := by
  intro s b u h
  rw [Exec.bind_apply] at h
  cases hxs : x s with
  | error e t => simp [hxs] at h
  | ok a t =>
    simp only [hxs] at h
    have h1 := hx s a t hxs
    have h2 := hf a t b u h
    refine ⟨h2.1.trans h1.1, ?_⟩
    rw [Exec.bind_apply, h1.2]
    exact h2.2

theorem Wide.pure {α : Type} (a : α) : (Pure.pure a : Exec α).Wide := by
  intro s b t h
  cases h
  exact ⟨rfl, rfl⟩

theorem Wide.readR : Exec.Wide readR := by
  intro s b t h
  cases h
  exact ⟨rfl, rfl⟩

theorem Wide.modR (f : Regs → Regs) : (Machine.modR f).Wide := by
  intro s b t h
  cases h
  exact ⟨rfl, rfl⟩

theorem Wide.io : Exec.Wide io := Wide.modR _

theorem Wide.blockEnd : Exec.Wide blockEnd := by
  intro s b t h
  cases h
  exact ⟨rfl, rfl⟩

theorem Wide.fetched (n : Nat) : (Machine.fetched n).Wide := by
  intro s b t h
  cases h
  exact ⟨rfl, rfl⟩

theorem Wide.memRead (a : Addr) : (Machine.memRead a).Wide := by
  intro s b t h
  unfold Machine.memRead at h
  split at h
  · cases h
    exact ⟨rfl, memRead_full s.widen_full a⟩
  · cases h

theorem Wide.memWrite (a : Addr) (v : Byte) : (Machine.memWrite a v).Wide := by
  intro s b t h
  unfold Machine.memWrite at h
  split at h
  · cases h
    exact ⟨rfl, memWrite_full s.widen_full a v⟩
  · cases h

theorem Wide.ite {α : Type} {p : Prop} [Decidable p] {x y : Exec α} (hx : x.Wide) (hy : y.Wide) :
    (if p then x else y).Wide := by
  split
  · exact hx
  · exact hy

theorem Wide.push8 (v : Byte) : (Machine.push8 v).Wide :=
  Wide.bind Wide.readR fun _ => Wide.bind (Wide.memWrite _ _) fun _ => Wide.modR _

theorem Wide.pull8 : Exec.Wide pull8 := Wide.bind (Wide.modR _) fun _ => Wide.bind Wide.readR fun _ => Wide.memRead _

theorem Wide.push16 (v : Word16) : (Machine.push16 v).Wide := Wide.bind (Wide.push8 _) fun _ => Wide.push8 _

theorem Wide.pull16 : Exec.Wide pull16 := Wide.bind Wide.pull8 fun _ => Wide.bind Wide.pull8 fun _ => Wide.pure _

theorem Wide.directBase (d : Byte) : (Machine.directBase d).Wide := by
  intro s a t h
  rw [directBase_apply] at *
  cases h
  exact ⟨rfl, rfl⟩

theorem Wide.readPtr16 (p : Word16) : (Machine.readPtr16 p).Wide :=
  Wide.bind Wide.readR fun _ => Wide.bind (Wide.memRead _) fun _ => Wide.bind (Wide.memRead _) fun _ => Wide.pure _

theorem Wide.readPtr24 (p : Word16) : (Machine.readPtr24 p).Wide :=
  Wide.bind Wide.readR fun _ => Wide.bind (Wide.readPtr16 _) fun _ => Wide.bind (Wide.memRead _) fun _ => Wide.pure _

theorem Wide.indexPenalty (st : Bool) (r : Regs) (b i : Word16) : (Machine.indexPenalty st r b i).Wide := by
  intro s a t h
  rw [indexPenalty_apply] at *
  cases h
  exact ⟨rfl, rfl⟩

theorem Wide.ea (st : Bool) (m : Mode) : (m.ea st).Wide := by
  cases m <;> unfold Mode.ea <;>
    repeat' with_reducible first
      | exact Wide.pure _ | exact Wide.readR | exact Wide.io | exact Wide.directBase _ | exact Wide.readPtr16 _
      | exact Wide.readPtr24 _ | exact Wide.indexPenalty _ _ _ _ | refine Wide.bind ?_ (fun _ => ?_)

theorem Wide.readOperand (ea : Ea) (w : Width) : (Machine.readOperand ea w).Wide := by
  cases w
  · exact Wide.bind (Wide.memRead _) fun _ => Wide.pure _
  · exact Wide.bind (Wide.memRead _) fun _ => Wide.bind (Wide.memRead _) fun _ => Wide.pure _

theorem Wide.writeOperand (ea : Ea) (w : Width) (v : Word16) : (Machine.writeOperand ea w v).Wide := by
  cases w
  · exact Wide.bind (Wide.memWrite _ _) fun _ => Wide.pure _
  · exact Wide.bind (Wide.memWrite _ _) fun _ => Wide.memWrite _ _

theorem Wide.writeBack (ea : Ea) (w : Width) (v : Word16) : (Machine.writeBack ea w v).Wide := by
  cases w
  · exact Wide.bind (Wide.pure _) fun _ => Wide.memWrite _ _
  · exact Wide.bind (Wide.memWrite _ _) fun _ => Wide.memWrite _ _

theorem Wide.jumpTo (b : Option Byte) (a : Word16) : (Machine.jumpTo b a).Wide :=
  Wide.bind (Wide.modR _) fun _ => Wide.blockEnd

/-- A next state of a meaning is the wide machine's. -/
theorem runGuest_widen {n : Nat} {body : Exec Unit} (hb : body.Wide) {s t : State} (h : runGuest n body s = .next t) :
    t.cfg = s.cfg ∧ runGuest n body s.widen = .next t.widen := by
  have hw : (do Machine.fetched n; body : Exec Unit).Wide := Wide.bind (Wide.fetched n) fun _ => hb
  revert h
  unfold runGuest
  cases hx : (do Machine.fetched n; body : Exec Unit) s with
  | error e u => exact fun h => nomatch h
  | ok a u =>
    intro h
    cases h
    have h2 := hw s a t hx
    exact ⟨h2.1, by rw [h2.2]⟩

/-- From a meaning's closed form in the wide machine, its next state in any. -/
theorem runGuest_next {n : Nat} {body : Exec Unit} (hb : body.Wide) {s t u : State} (h : runGuest n body s = .next t)
    (hf : runGuest n body s.widen = .next u.widen) (hu : u.cfg = s.cfg) : t = u := by
  have h1 := runGuest_widen hb h
  rw [hf] at h1
  simp only [Host.Outcome.next.injEq] at h1
  exact State.widen_inj h1.2.symm (h1.1.trans hu.symm)

/-! ### The next state of each pattern -/

theorem aluMem_next {op : AluOp} {m : Mode} {s t : State} (h : aluMem op m s = .next t) :
    t = { s with
      r := op.effect (operandAt s.mem (eaOf s.mem s.r m) (widthA s.r))
        (s.r.passed (m.length s.cfg.srOffset)
          (m.length s.cfg.srOffset + eaCycles false s.mem s.r m + (widthA s.r).bytes))
      ending := false } :=
  runGuest_next
    (Wide.bind (Wide.ea _ _) fun _ => Wide.bind Wide.readR fun _ => Wide.bind (Wide.readOperand _ _) fun _ => Wide.modR _)
    h (aluMem_full op m s.widen_full) rfl

theorem storeMem_next {width : Regs → Width} {value : Regs → Word16} {m : Mode} {s t : State}
    (h : storeMem width value m s = .next t) (hw : ∀ n k, width (s.r.passed n k) = width s.r)
    (hv : ∀ n k, value (s.r.passed n k) = value s.r) :
    t = { s with
      r := s.r.passed (m.length s.cfg.srOffset)
        (m.length s.cfg.srOffset + eaCycles true s.mem s.r m + (width s.r).bytes)
      mem := storedAt s.mem (eaOf s.mem s.r m) (width s.r) (value s.r)
      ending := false } :=
  runGuest_next (Wide.bind (Wide.ea _ _) fun _ => Wide.bind Wide.readR fun _ => Wide.writeOperand _ _ _)
    h (storeMem_full width value m s.widen_full hw hv) rfl

theorem rmwMem_next {op : RmwOp} {m : Mode} {s t : State} (h : rmwMem op m s = .next t) :
    t =
      (let n := m.length s.cfg.srOffset
       let w := widthA s.r
       let ea := eaOf s.mem s.r m
       let q := op.number w.bits (w.num (operandAt s.mem ea w)) s.r.c
       { s with
         r := { resultNZ w q.1 (s.r.passed n (n + eaCycles true s.mem s.r m + 2 * w.bytes + 1)) with c := q.2 }
         mem := writtenBack s.mem ea w (BitVec.ofNat 16 q.1)
         ending := false }) :=
  runGuest_next
    (Wide.bind (Wide.ea _ _) fun _ => Wide.bind Wide.readR fun _ => Wide.bind (Wide.readOperand _ _) fun _ =>
      Wide.bind Wide.io fun _ => Wide.bind (Wide.modR _) fun _ => Wide.writeBack _ _ _)
    h (rmwMem_full op m s.widen_full) rfl

theorem bitMem_next {m : Mode} {s t : State} (h : bitMem m s = .next t) :
    t = { s with
      r := bitEffect (operandAt s.mem (eaOf s.mem s.r m) (widthA s.r))
        (s.r.passed (m.length s.cfg.srOffset)
          (m.length s.cfg.srOffset + eaCycles false s.mem s.r m + (widthA s.r).bytes))
      ending := false } :=
  runGuest_next
    (Wide.bind (Wide.ea _ _) fun _ => Wide.bind Wide.readR fun _ => Wide.bind (Wide.readOperand _ _) fun _ => Wide.modR _)
    h (bitMem_full m s.widen_full) rfl

theorem ldIdxMem_next {i : Idx} {m : Mode} {s t : State} (h : ldIdxMem i m s = .next t) :
    t = { s with
      r :=
        let v := (operandAt s.mem (eaOf s.mem s.r m) (widthX s.r)).toNat
        resultNZ (widthX s.r) v (resultIdx i (widthX s.r) v
          (s.r.passed (m.length s.cfg.srOffset)
            (m.length s.cfg.srOffset + eaCycles false s.mem s.r m + (widthX s.r).bytes)))
      ending := false } :=
  runGuest_next
    (Wide.bind (Wide.ea _ _) fun _ => Wide.bind Wide.readR fun _ => Wide.bind (Wide.readOperand _ _) fun _ => Wide.modR _)
    h (ldIdxMem_full i m s.widen_full) rfl

theorem cpIdxMem_next {i : Idx} {m : Mode} {s t : State} (h : cpIdxMem i m s = .next t) :
    t = { s with
      r := compareEffect (widthX s.r) ((widthX s.r).num (i.raw s.r))
        ((widthX s.r).num (operandAt s.mem (eaOf s.mem s.r m) (widthX s.r)))
        (s.r.passed (m.length s.cfg.srOffset)
          (m.length s.cfg.srOffset + eaCycles false s.mem s.r m + (widthX s.r).bytes))
      ending := false } :=
  runGuest_next
    (Wide.bind (Wide.ea _ _) fun _ => Wide.bind Wide.readR fun _ => Wide.bind (Wide.readOperand _ _) fun _ => Wide.modR _)
    h (cpIdxMem_full i m s.widen_full) rfl

theorem pushAt_next {width : Regs → Width} {value : Regs → Word16} {s t : State} (h : pushAt width value s = .next t)
    (hw : ∀ n k, width (s.r.passed n k) = width s.r) (hv : ∀ n k, value (s.r.passed n k) = value s.r) :
    t = { s with
      r := { s.r.passed 1 (2 + (width s.r).bytes) with s := pushedS s.r.e s.r.s (width s.r).bytes }
      mem := pushedMem s.mem s.r.e s.r.s (pushOrder (width s.r) (value s.r))
      ending := false } := by
  refine runGuest_next (Wide.bind Wide.io fun _ => Wide.bind Wide.readR fun r => ?_) h
    (pushAt_full width value s.widen_full hw hv) rfl
  cases width r
  · exact Wide.push8 _
  · exact Wide.push16 _

theorem pullAt_next {width : Regs → Width} {f : Word16 → Regs → Regs} {s t : State} (h : pullAt width f s = .next t)
    (hw : ∀ n k, width (s.r.passed n k) = width s.r) :
    t = { s with
      r := f (pulledValue s.mem s.r.e s.r.s (width s.r))
        { s.r.passed 1 (3 + (width s.r).bytes) with s := pulledS s.r.e s.r.s (width s.r).bytes }
      ending := false } := by
  refine runGuest_next (Wide.bind (Wide.modR _) fun _ => Wide.bind Wide.readR fun r => Wide.bind Wide.pull8 fun _ =>
    Wide.bind ?_ fun _ => Wide.modR _) h (pullAt_full width f s.widen_full hw) rfl
  cases width r
  · exact Wide.pure _
  · exact Wide.pull8

theorem execPla_next {s t : State} (h : execPla s = .next t) :
    t = { s with
      r :=
        let w := widthA s.r
        let v := (pulledValue s.mem s.r.e s.r.s w).toNat
        resultNZ w v (resultA w v { s.r.passed 1 (3 + w.bytes) with s := pulledS s.r.e s.r.s w.bytes })
      ending := false } := by
  refine runGuest_next (Wide.bind (Wide.modR _) fun _ => Wide.bind Wide.pull8 fun _ => Wide.bind (Wide.modR _) fun _ =>
    Wide.bind Wide.readR fun r => ?_) h (execPla_full s.widen_full) rfl
  cases widthA r
  · exact Wide.modR _
  · exact Wide.bind Wide.pull8 fun _ => Wide.bind (Wide.modR _) fun _ => Wide.modR _

theorem jumpIndirect_next {a : Word16} {s t : State} (h : execJmpAbsInd a s = .next t) :
    t = { s with r := { s.r.passed 3 5 with pc := ptr16At s.mem s.r.e a }, ending := true } :=
  runGuest_next (Wide.bind (Wide.readPtr16 _) fun _ => Wide.jumpTo _ _) h (jumpIndirect_full a s.widen_full) rfl

theorem callSubroutine_next {a : Word16} {s t : State} (h : execJsrAbs a s = .next t) :
    t = { s with
      r := { s.r.passed 3 6 with pc := a, s := pushedS s.r.e s.r.s 2 }
      mem := pushedMem s.mem s.r.e s.r.s [hi8 (s.r.pc + 2#16), lo8 (s.r.pc + 2#16)]
      ending := true } :=
  runGuest_next (Wide.bind Wide.io fun _ => Wide.bind Wide.readR fun _ => Wide.bind (Wide.push16 _) fun _ => Wide.jumpTo _ _)
    h (callSubroutine_full a s.widen_full) rfl

theorem returnSubroutine_next {s t : State} (h : execRts s = .next t) :
    t = { s with
      r := { s.r.passed 1 6 with
        pc := cat16 (pulledByte s.mem s.r.e s.r.s 2) (pulledByte s.mem s.r.e s.r.s 1) + 1#16
        s := pulledS s.r.e s.r.s 2 }
      ending := true } :=
  runGuest_next (Wide.bind (Wide.modR _) fun _ => Wide.bind Wide.pull16 fun _ => Wide.bind Wide.io fun _ => Wide.jumpTo _ _)
    h (returnSubroutine_full s.widen_full) rfl

theorem returnInterrupt_next {s t : State} (h : execRti s = .next t) :
    t = { s with
      r := { unpackFlags (pulledByte s.mem s.r.e s.r.s 1) s.r with
        pc := cat16 (pulledByte s.mem s.r.e s.r.s 3) (pulledByte s.mem s.r.e s.r.s 2)
        pbr := if s.r.e then s.r.pbr else pulledByte s.mem s.r.e s.r.s 4
        s := pulledS s.r.e s.r.s (if s.r.e then 3 else 4)
        cycle := s.r.cycle + (if s.r.e then 6#64 else 7#64) }
      ending := true } := by
  refine runGuest_next (Wide.bind (Wide.modR _) fun _ => Wide.bind Wide.pull8 fun _ => Wide.bind (Wide.modR _) fun _ =>
    Wide.bind Wide.pull16 fun _ => Wide.bind Wide.readR fun _ => Wide.ite (Wide.jumpTo _ _) ?_) h
    (returnInterrupt_full s.widen_full) rfl
  exact Wide.bind Wide.pull8 fun _ => Wide.jumpTo _ _

end Sys2Proof.Machine
end

