-- ==== Sys2Proof/Laws/Patterns.lean ====
section
/-! SUPPORT. Every guest instruction as one of a few shared patterns, and the next state of each pattern in closed form: one case
analysis over the 256 guest instructions, made here once, for the rules that hold of all of them. -/

namespace Sys2Proof.Machine

/-- What a push instruction pushes. -/
inductive PushOp where
  | a | x | y | p | d | k | b

/-- What a pull instruction other than PLA pulls into. -/
inductive PullOp where
  | x | y | p | d | b

/-- What a branch tests. -/
inductive Cond where
  | pl | mi | vc | vs | always | cc | cs | ne | eq

def PushOp.width : PushOp → Regs → Width
  | .a => widthA
  | .x => widthX
  | .y => widthX
  | .p => fun _ => .w8
  | .d => fun _ => .w16
  | .k => fun _ => .w8
  | .b => fun _ => .w8

def PushOp.value : PushOp → Regs → Word16
  | .a => loadA
  | .x => loadIdx .x
  | .y => loadIdx .y
  | .p => fun r => zext16 (packFlags r)
  | .d => fun r => r.d
  | .k => fun r => zext16 r.pbr
  | .b => fun r => zext16 r.dbr

def PullOp.width : PullOp → Regs → Width
  | .x => widthX
  | .y => widthX
  | .p => fun _ => .w8
  | .d => fun _ => .w16
  | .b => fun _ => .w8

def PullOp.effect : PullOp → Word16 → Regs → Regs
  | .x => setIdx .x
  | .y => setIdx .y
  | .p => fun v r => unpackFlags (lo8 v) r
  | .d => fun v r => setNZ16 v { r with d := v }
  | .b => fun v r => setNZ8 (lo8 v) { r with dbr := lo8 v }

def Cond.holds : Cond → Regs → Bool
  | .pl => fun r => !r.n
  | .mi => fun r => r.n
  | .vc => fun r => !r.v
  | .vs => fun r => r.v
  | .always => fun _ => true
  | .cc => fun r => !r.c
  | .cs => fun r => r.c
  | .ne => fun r => !r.z
  | .eq => fun r => r.z

/-- What the meanings are built from. -/
inductive Pattern where
  | unimplemented (opcode : Byte)
  | aluImm (op : AluOp) (v : Word16)
  | aluMem (op : AluOp) (m : Mode)
  | store (op : StoreOp) (m : Mode)
  | rmwAcc (op : RmwOp)
  | rmwMem (op : RmwOp) (m : Mode)
  | bitImm (v : Word16)
  | bitMem (m : Mode)
  | ldIdxImm (i : Idx) (v : Word16)
  | ldIdxMem (i : Idx) (m : Mode)
  | cpIdxImm (i : Idx) (v : Word16)
  | cpIdxMem (i : Idx) (m : Mode)
  | stepIdx (i : Idx) (up : Bool)
  | implied (k : Nat) (f : Regs → Regs)
  | push (op : PushOp)
  | pull (op : PullOp)
  | pla
  | jmpAbs (a : Word16)
  | jmpLong (a : Addr)
  | jmpInd (a : Word16)
  | jsr (a : Word16)
  | rts
  | rti
  | branch (cond : Cond) (d : Byte)

/-- The meaning a pattern stands for. -/
def Pattern.run : Pattern → State → Host.Outcome State Fault Refusal
  | .unimplemented op => Machine.unimplemented op
  | .aluImm op v => Machine.aluImm op v
  | .aluMem op m => Machine.aluMem op m
  | .store .sta m => storeMem widthA loadA m
  | .store .stz m => storeMem widthA (fun _ => 0x0000#16) m
  | .store .stx m => storeMem widthX (loadIdx .x) m
  | .store .sty m => storeMem widthX (loadIdx .y) m
  | .rmwAcc op => Machine.rmwAcc op
  | .rmwMem op m => Machine.rmwMem op m
  | .bitImm v => Machine.bitImm v
  | .bitMem m => Machine.bitMem m
  | .ldIdxImm i v => Machine.ldIdxImm i v
  | .ldIdxMem i m => Machine.ldIdxMem i m
  | .cpIdxImm i v => Machine.cpIdxImm i v
  | .cpIdxMem i m => Machine.cpIdxMem i m
  | .stepIdx i up => Machine.stepIdx i up
  | .implied k f => Machine.implied k f
  | .push op => pushAt op.width op.value
  | .pull op => pullAt op.width op.effect
  | .pla => execPla
  | .jmpAbs a => execJmpAbs a
  | .jmpLong a => execJmpLong a
  | .jmpInd a => execJmpAbsInd a
  | .jsr a => execJsrAbs a
  | .rts => execRts
  | .rti => execRti
  | .branch c d => Machine.branch c.holds d

/-- The pattern of a guest instruction. -/
def patternOf : Instr → Option Pattern
  | .brk => some (.unimplemented 0x00#8)
  | .oraIndX d => some (.aluMem .ora (.indX d))
  | .cop => some (.unimplemented 0x02#8)
  | .oraSr off => some (.aluMem .ora (.sr off))
  | .tsbDir => some (.unimplemented 0x04#8)
  | .oraDir d => some (.aluMem .ora (.dir d))
  | .aslDir d => some (.rmwMem .asl (.dir d))
  | .oraIndLong d => some (.aluMem .ora (.indLong d))
  | .php => some (.push .p)
  | .oraImm v => some (.aluImm .ora v)
  | .aslAcc => some (.rmwAcc .asl)
  | .phd => some (.push .d)
  | .tsbAbs => some (.unimplemented 0x0C#8)
  | .oraAbs a => some (.aluMem .ora (.abs a))
  | .aslAbs a => some (.rmwMem .asl (.abs a))
  | .oraLong a => some (.aluMem .ora (.long a))
  | .bpl d => some (.branch .pl d)
  | .oraIndY d => some (.aluMem .ora (.indY d))
  | .oraInd d => some (.aluMem .ora (.ind d))
  | .oraSrIndY => some (.unimplemented 0x13#8)
  | .trbDir => some (.unimplemented 0x14#8)
  | .oraDirX d => some (.aluMem .ora (.dirX d))
  | .aslDirX d => some (.rmwMem .asl (.dirX d))
  | .oraIndLongY => some (.unimplemented 0x17#8)
  | .clc => some (.implied 1 (fun r => { r with c := false }))
  | .oraAbsY a => some (.aluMem .ora (.absY a))
  | .incAcc => some (.rmwAcc .inc)
  | .tcs => some (.implied 1 (fun r => storeS (loadA r) r))
  | .trbAbs => some (.unimplemented 0x1C#8)
  | .oraAbsX a => some (.aluMem .ora (.absX a))
  | .aslAbsX a => some (.rmwMem .asl (.absX a))
  | .oraLongX a => some (.aluMem .ora (.longX a))
  | .jsrAbs a => some (.jsr a)
  | .andIndX d => some (.aluMem .and (.indX d))
  | .jsl => some (.unimplemented 0x22#8)
  | .andSr off => some (.aluMem .and (.sr off))
  | .bitDir d => some (.bitMem (.dir d))
  | .andDir d => some (.aluMem .and (.dir d))
  | .rolDir d => some (.rmwMem .rol (.dir d))
  | .andIndLong d => some (.aluMem .and (.indLong d))
  | .plp => some (.pull .p)
  | .andImm v => some (.aluImm .and v)
  | .rolAcc => some (.rmwAcc .rol)
  | .pld => some (.pull .d)
  | .bitAbs a => some (.bitMem (.abs a))
  | .andAbs a => some (.aluMem .and (.abs a))
  | .rolAbs a => some (.rmwMem .rol (.abs a))
  | .andLong a => some (.aluMem .and (.long a))
  | .bmi d => some (.branch .mi d)
  | .andIndY d => some (.aluMem .and (.indY d))
  | .andInd d => some (.aluMem .and (.ind d))
  | .andSrIndY => some (.unimplemented 0x33#8)
  | .bitDirX d => some (.bitMem (.dirX d))
  | .andDirX d => some (.aluMem .and (.dirX d))
  | .rolDirX d => some (.rmwMem .rol (.dirX d))
  | .andIndLongY => some (.unimplemented 0x37#8)
  | .sec => some (.implied 1 (fun r => { r with c := true }))
  | .andAbsY a => some (.aluMem .and (.absY a))
  | .decAcc => some (.rmwAcc .dec)
  | .tsc => some (.implied 1 (fun r => setNZ16 r.s (storeA true r.s r)))
  | .bitAbsX a => some (.bitMem (.absX a))
  | .andAbsX a => some (.aluMem .and (.absX a))
  | .rolAbsX a => some (.rmwMem .rol (.absX a))
  | .andLongX a => some (.aluMem .and (.longX a))
  | .rti => some (.rti)
  | .eorIndX d => some (.aluMem .eor (.indX d))
  | .wdm => some (.unimplemented 0x42#8)
  | .eorSr off => some (.aluMem .eor (.sr off))
  | .mvp => some (.unimplemented 0x44#8)
  | .eorDir d => some (.aluMem .eor (.dir d))
  | .lsrDir d => some (.rmwMem .lsr (.dir d))
  | .eorIndLong d => some (.aluMem .eor (.indLong d))
  | .pha => some (.push .a)
  | .eorImm v => some (.aluImm .eor v)
  | .lsrAcc => some (.rmwAcc .lsr)
  | .phk => some (.push .k)
  | .jmpAbs a => some (.jmpAbs a)
  | .eorAbs a => some (.aluMem .eor (.abs a))
  | .lsrAbs a => some (.rmwMem .lsr (.abs a))
  | .eorLong a => some (.aluMem .eor (.long a))
  | .bvc d => some (.branch .vc d)
  | .eorIndY d => some (.aluMem .eor (.indY d))
  | .eorInd d => some (.aluMem .eor (.ind d))
  | .eorSrIndY => some (.unimplemented 0x53#8)
  | .mvn => some (.unimplemented 0x54#8)
  | .eorDirX d => some (.aluMem .eor (.dirX d))
  | .lsrDirX d => some (.rmwMem .lsr (.dirX d))
  | .eorIndLongY => some (.unimplemented 0x57#8)
  | .cli => some (.implied 1 (fun r => { r with i := false }))
  | .eorAbsY a => some (.aluMem .eor (.absY a))
  | .phy => some (.push .y)
  | .tcd => some (.implied 1 (fun r => setNZ16 (loadA r) { r with d := loadA r }))
  | .jmpLong a => some (.jmpLong a)
  | .eorAbsX a => some (.aluMem .eor (.absX a))
  | .lsrAbsX a => some (.rmwMem .lsr (.absX a))
  | .eorLongX a => some (.aluMem .eor (.longX a))
  | .rts => some (.rts)
  | .adcIndX d => some (.aluMem .adc (.indX d))
  | .per => some (.unimplemented 0x62#8)
  | .adcSr off => some (.aluMem .adc (.sr off))
  | .stzDir d => some (.store .stz (.dir d))
  | .adcDir d => some (.aluMem .adc (.dir d))
  | .rorDir d => some (.rmwMem .ror (.dir d))
  | .adcIndLong d => some (.aluMem .adc (.indLong d))
  | .pla => some (.pla)
  | .adcImm v => some (.aluImm .adc v)
  | .rorAcc => some (.rmwAcc .ror)
  | .rtl => some (.unimplemented 0x6B#8)
  | .jmpAbsInd a => some (.jmpInd a)
  | .adcAbs a => some (.aluMem .adc (.abs a))
  | .rorAbs a => some (.rmwMem .ror (.abs a))
  | .adcLong a => some (.aluMem .adc (.long a))
  | .bvs d => some (.branch .vs d)
  | .adcIndY d => some (.aluMem .adc (.indY d))
  | .adcInd d => some (.aluMem .adc (.ind d))
  | .adcSrIndY => some (.unimplemented 0x73#8)
  | .stzDirX d => some (.store .stz (.dirX d))
  | .adcDirX d => some (.aluMem .adc (.dirX d))
  | .rorDirX d => some (.rmwMem .ror (.dirX d))
  | .adcIndLongY => some (.unimplemented 0x77#8)
  | .sei => some (.implied 1 (fun r => { r with i := true }))
  | .adcAbsY a => some (.aluMem .adc (.absY a))
  | .ply => some (.pull .y)
  | .tdc => some (.implied 1 (fun r => setNZ16 r.d (storeA true r.d r)))
  | .jmpAbsIndX => some (.unimplemented 0x7C#8)
  | .adcAbsX a => some (.aluMem .adc (.absX a))
  | .rorAbsX a => some (.rmwMem .ror (.absX a))
  | .adcLongX a => some (.aluMem .adc (.longX a))
  | .bra d => some (.branch .always d)
  | .staIndX d => some (.store .sta (.indX d))
  | .brl => some (.unimplemented 0x82#8)
  | .staSr off => some (.store .sta (.sr off))
  | .styDir d => some (.store .sty (.dir d))
  | .staDir d => some (.store .sta (.dir d))
  | .stxDir d => some (.store .stx (.dir d))
  | .staIndLong d => some (.store .sta (.indLong d))
  | .dey => some (.stepIdx .y false)
  | .bitImm v => some (.bitImm v)
  | .txa => some (.implied 1 (fun r => storeResultA (loadIdx .x r) r))
  | .phb => some (.push .b)
  | .styAbs a => some (.store .sty (.abs a))
  | .staAbs a => some (.store .sta (.abs a))
  | .stxAbs a => some (.store .stx (.abs a))
  | .staLong a => some (.store .sta (.long a))
  | .bcc d => some (.branch .cc d)
  | .staIndY d => some (.store .sta (.indY d))
  | .staInd d => some (.store .sta (.ind d))
  | .staSrIndY => some (.unimplemented 0x93#8)
  | .styDirX d => some (.store .sty (.dirX d))
  | .staDirX d => some (.store .sta (.dirX d))
  | .stxDirY d => some (.store .stx (.dirY d))
  | .staIndLongY => some (.unimplemented 0x97#8)
  | .tya => some (.implied 1 (fun r => storeResultA (loadIdx .y r) r))
  | .staAbsY a => some (.store .sta (.absY a))
  | .txs => some (.implied 1 (fun r => storeS (loadIdx .x r) r))
  | .txy => some (.implied 1 (fun r => setIdx .y (loadIdx .x r) r))
  | .stzAbs a => some (.store .stz (.abs a))
  | .staAbsX a => some (.store .sta (.absX a))
  | .stzAbsX a => some (.store .stz (.absX a))
  | .staLongX a => some (.store .sta (.longX a))
  | .ldyImm v => some (.ldIdxImm .y v)
  | .ldaIndX d => some (.aluMem .lda (.indX d))
  | .ldxImm v => some (.ldIdxImm .x v)
  | .ldaSr off => some (.aluMem .lda (.sr off))
  | .ldyDir d => some (.ldIdxMem .y (.dir d))
  | .ldaDir d => some (.aluMem .lda (.dir d))
  | .ldxDir d => some (.ldIdxMem .x (.dir d))
  | .ldaIndLong d => some (.aluMem .lda (.indLong d))
  | .tay => some (.implied 1 (fun r => setIdx .y (loadA r) r))
  | .ldaImm v => some (.aluImm .lda v)
  | .tax => some (.implied 1 (fun r => setIdx .x (loadA r) r))
  | .plb => some (.pull .b)
  | .ldyAbs a => some (.ldIdxMem .y (.abs a))
  | .ldaAbs a => some (.aluMem .lda (.abs a))
  | .ldxAbs a => some (.ldIdxMem .x (.abs a))
  | .ldaLong a => some (.aluMem .lda (.long a))
  | .bcs d => some (.branch .cs d)
  | .ldaIndY d => some (.aluMem .lda (.indY d))
  | .ldaInd d => some (.aluMem .lda (.ind d))
  | .ldaSrIndY => some (.unimplemented 0xB3#8)
  | .ldyDirX d => some (.ldIdxMem .y (.dirX d))
  | .ldaDirX d => some (.aluMem .lda (.dirX d))
  | .ldxDirY d => some (.ldIdxMem .x (.dirY d))
  | .ldaIndLongY => some (.unimplemented 0xB7#8)
  | .clv => some (.implied 1 (fun r => { r with v := false }))
  | .ldaAbsY a => some (.aluMem .lda (.absY a))
  | .tsx => some (.implied 1 (fun r => setIdx .x r.s r))
  | .tyx => some (.implied 1 (fun r => setIdx .x (loadIdx .y r) r))
  | .ldyAbsX a => some (.ldIdxMem .y (.absX a))
  | .ldaAbsX a => some (.aluMem .lda (.absX a))
  | .ldxAbsY a => some (.ldIdxMem .x (.absY a))
  | .ldaLongX a => some (.aluMem .lda (.longX a))
  | .cpyImm v => some (.cpIdxImm .y v)
  | .cmpIndX d => some (.aluMem .cmp (.indX d))
  | .rep => some (.unimplemented 0xC2#8)
  | .cmpSr off => some (.aluMem .cmp (.sr off))
  | .cpyDir d => some (.cpIdxMem .y (.dir d))
  | .cmpDir d => some (.aluMem .cmp (.dir d))
  | .decDir d => some (.rmwMem .dec (.dir d))
  | .cmpIndLong d => some (.aluMem .cmp (.indLong d))
  | .iny => some (.stepIdx .y true)
  | .cmpImm v => some (.aluImm .cmp v)
  | .dex => some (.stepIdx .x false)
  | .wai => some (.unimplemented 0xCB#8)
  | .cpyAbs a => some (.cpIdxMem .y (.abs a))
  | .cmpAbs a => some (.aluMem .cmp (.abs a))
  | .decAbs a => some (.rmwMem .dec (.abs a))
  | .cmpLong a => some (.aluMem .cmp (.long a))
  | .bne d => some (.branch .ne d)
  | .cmpIndY d => some (.aluMem .cmp (.indY d))
  | .cmpInd d => some (.aluMem .cmp (.ind d))
  | .cmpSrIndY => some (.unimplemented 0xD3#8)
  | .pei => some (.unimplemented 0xD4#8)
  | .cmpDirX d => some (.aluMem .cmp (.dirX d))
  | .decDirX d => some (.rmwMem .dec (.dirX d))
  | .cmpIndLongY => some (.unimplemented 0xD7#8)
  | .cld => some (.implied 1 (fun r => { r with df := false }))
  | .cmpAbsY a => some (.aluMem .cmp (.absY a))
  | .phx => some (.push .x)
  | .stp => some (.unimplemented 0xDB#8)
  | .jml => some (.unimplemented 0xDC#8)
  | .cmpAbsX a => some (.aluMem .cmp (.absX a))
  | .decAbsX a => some (.rmwMem .dec (.absX a))
  | .cmpLongX a => some (.aluMem .cmp (.longX a))
  | .cpxImm v => some (.cpIdxImm .x v)
  | .sbcIndX d => some (.aluMem .sbc (.indX d))
  | .sep => some (.unimplemented 0xE2#8)
  | .sbcSr off => some (.aluMem .sbc (.sr off))
  | .cpxDir d => some (.cpIdxMem .x (.dir d))
  | .sbcDir d => some (.aluMem .sbc (.dir d))
  | .incDir d => some (.rmwMem .inc (.dir d))
  | .sbcIndLong d => some (.aluMem .sbc (.indLong d))
  | .inx => some (.stepIdx .x true)
  | .sbcImm v => some (.aluImm .sbc v)
  | .nop => some (.implied 1 (fun r => r))
  | .xba => some (.implied 2 (fun r => setNZ8 r.b { r with a := r.b, b := r.a }))
  | .cpxAbs a => some (.cpIdxMem .x (.abs a))
  | .sbcAbs a => some (.aluMem .sbc (.abs a))
  | .incAbs a => some (.rmwMem .inc (.abs a))
  | .sbcLong a => some (.aluMem .sbc (.long a))
  | .beq d => some (.branch .eq d)
  | .sbcIndY d => some (.aluMem .sbc (.indY d))
  | .sbcInd d => some (.aluMem .sbc (.ind d))
  | .sbcSrIndY => some (.unimplemented 0xF3#8)
  | .pea => some (.unimplemented 0xF4#8)
  | .sbcDirX d => some (.aluMem .sbc (.dirX d))
  | .incDirX d => some (.rmwMem .inc (.dirX d))
  | .sbcIndLongY => some (.unimplemented 0xF7#8)
  | .sed => some (.implied 1 (fun r => { r with df := true }))
  | .sbcAbsY a => some (.aluMem .sbc (.absY a))
  | .plx => some (.pull .x)
  | .xce => some (.implied 1 exchangeCE)
  | .jsrAbsIndX => some (.unimplemented 0xFC#8)
  | .sbcAbsX a => some (.aluMem .sbc (.absX a))
  | .incAbsX a => some (.rmwMem .inc (.absX a))
  | .sbcLongX a => some (.aluMem .sbc (.longX a))
  | _ => none

theorem patternOf_isGuest {i : Instr} (h : isGuest i = true) : ∃ p, patternOf i = some p := by
  cases i <;> first | exact ⟨_, rfl⟩ | exact absurd h Bool.false_ne_true

/-- A guest instruction runs its pattern. -/
theorem exec_patternOf {i : Instr} {p : Pattern} (h : patternOf i = some p) (s : State) : exec i s = p.run s := by
  cases i <;> first | (cases h; rfl) | cases h

/-! ### The closed form of a next state -/

/-- The bytes a pattern's instruction takes. -/
def Pattern.bytes (s : State) : Pattern → Nat
  | .aluImm _ _ | .bitImm _ => immLength s.r.m
  | .ldIdxImm _ _ | .cpIdxImm _ _ => immLength s.r.xf
  | .aluMem _ m | .store _ m | .rmwMem _ m | .bitMem m | .ldIdxMem _ m | .cpIdxMem _ m => m.length s.cfg.srOffset
  | .jmpAbs _ | .jmpInd _ | .jsr _ => 3
  | .jmpLong _ => 4
  | .branch _ _ => 2
  | _ => 1

/-- The bus cycles of an instruction that goes on, branches apart. -/
def Pattern.cycles (s : State) (p : Pattern) : Nat :=
  match p with
  | .aluMem _ m | .bitMem m => p.bytes s + eaCycles false s.mem s.r m + (widthA s.r).bytes
  | .ldIdxMem _ m | .cpIdxMem _ m => p.bytes s + eaCycles false s.mem s.r m + (widthX s.r).bytes
  | .store op m => p.bytes s + eaCycles true s.mem s.r m + (op.width s.r).bytes
  | .rmwMem _ m => p.bytes s + eaCycles true s.mem s.r m + 2 * (widthA s.r).bytes + 1
  | .rmwAcc _ | .stepIdx _ _ => 2
  | .implied k _ => 1 + k
  | .push op => 2 + (op.width s.r).bytes
  | .pull op => 3 + (op.width s.r).bytes
  | .pla => 3 + (widthA s.r).bytes
  | .jmpInd _ => 5
  | .jsr _ | .rts => 6
  | _ => p.bytes s

/-- The registers a pattern leaves. -/
def Pattern.regs (s : State) (p : Pattern) : Regs :=
  let r := s.r.passed (p.bytes s) (p.cycles s)
  match p with
  | .unimplemented _ => s.r
  | .aluImm op v => op.effect v r
  | .aluMem op m => op.effect (operandAt s.mem (eaOf s.mem s.r m) (widthA s.r)) r
  | .store _ _ => r
  | .rmwAcc op =>
    let q := op.number (widthA s.r).bits ((widthA s.r).num (loadA s.r)) s.r.c
    { resultNZ (widthA s.r) q.1 (resultA (widthA s.r) q.1 r) with c := q.2 }
  | .rmwMem op m =>
    let q := op.number (widthA s.r).bits
      ((widthA s.r).num (operandAt s.mem (eaOf s.mem s.r m) (widthA s.r))) s.r.c
    { resultNZ (widthA s.r) q.1 r with c := q.2 }
  | .bitImm v => { r with z := decide ((widthA s.r).num (loadA s.r) &&& (widthA s.r).num v = 0) }
  | .bitMem m => bitEffect (operandAt s.mem (eaOf s.mem s.r m) (widthA s.r)) r
  | .ldIdxImm i v => resultNZ (widthX s.r) v.toNat (resultIdx i (widthX s.r) v.toNat r)
  | .ldIdxMem i m =>
    let v := (operandAt s.mem (eaOf s.mem s.r m) (widthX s.r)).toNat
    resultNZ (widthX s.r) v (resultIdx i (widthX s.r) v r)
  | .cpIdxImm i v => compareEffect (widthX s.r) ((widthX s.r).num (i.raw s.r)) ((widthX s.r).num v) r
  | .cpIdxMem i m =>
    compareEffect (widthX s.r) ((widthX s.r).num (i.raw s.r))
      ((widthX s.r).num (operandAt s.mem (eaOf s.mem s.r m) (widthX s.r))) r
  | .stepIdx i up =>
    let n := (widthX s.r).num (i.raw s.r) + (if up then 1 else 65535)
    resultNZ (widthX s.r) n (resultIdx i (widthX s.r) n r)
  | .implied _ f => f r
  | .push op => { r with s := pushedS s.r.e s.r.s (op.width s.r).bytes }
  | .pull op =>
    op.effect (pulledValue s.mem s.r.e s.r.s (op.width s.r)) { r with s := pulledS s.r.e s.r.s (op.width s.r).bytes }
  | .pla =>
    let v := (pulledValue s.mem s.r.e s.r.s (widthA s.r)).toNat
    resultNZ (widthA s.r) v
      (resultA (widthA s.r) v { r with s := pulledS s.r.e s.r.s (widthA s.r).bytes })
  | .jmpAbs a => { r with pc := a }
  | .jmpLong a => { r with pc := a.extractLsb' 0 16, pbr := a.extractLsb' 16 8 }
  | .jmpInd a => { r with pc := ptr16At s.mem s.r.e a }
  | .jsr a => { r with pc := a, s := pushedS s.r.e s.r.s 2 }
  | .rts =>
    { r with
      pc := cat16 (pulledByte s.mem s.r.e s.r.s 2) (pulledByte s.mem s.r.e s.r.s 1) + 1#16
      s := pulledS s.r.e s.r.s 2 }
  | .rti =>
    { unpackFlags (pulledByte s.mem s.r.e s.r.s 1) s.r with
      pc := cat16 (pulledByte s.mem s.r.e s.r.s 3) (pulledByte s.mem s.r.e s.r.s 2)
      pbr := if s.r.e then s.r.pbr else pulledByte s.mem s.r.e s.r.s 4
      s := pulledS s.r.e s.r.s (if s.r.e then 3 else 4)
      cycle := s.r.cycle + (if s.r.e then 6#64 else 7#64) }
  | .branch c d => branchEffect (c.holds s.r) d s.r

/-- Guest memory as a pattern leaves it. -/
def Pattern.memory (s : State) : Pattern → Memory
  | .store op m => storedAt s.mem (eaOf s.mem s.r m) (op.width s.r) (op.value s.r)
  | .rmwMem op m =>
    let q := op.number (widthA s.r).bits
      ((widthA s.r).num (operandAt s.mem (eaOf s.mem s.r m) (widthA s.r))) s.r.c
    writtenBack s.mem (eaOf s.mem s.r m) (widthA s.r) (BitVec.ofNat 16 q.1)
  | .push op => pushedMem s.mem s.r.e s.r.s (pushOrder (op.width s.r) (op.value s.r))
  | .jsr _ => pushedMem s.mem s.r.e s.r.s [hi8 (s.r.pc + 2#16), lo8 (s.r.pc + 2#16)]
  | _ => s.mem

/-- Does a pattern end the block? -/
def Pattern.ends : Pattern → Bool
  | .jmpAbs _ | .jmpLong _ | .jmpInd _ | .jsr _ | .rts | .rti | .branch _ _ => true
  | _ => false

/-- All a guest instruction can do when it goes on. -/
theorem Pattern.run_next {p : Pattern} {s t : State} (h : p.run s = .next t) :
    t = { s with r := p.regs s, mem := p.memory s, ending := p.ends } := by
  cases p with
  | unimplemented op => exact nomatch h
  | aluImm op v => exact Host.Outcome.next.inj (h.symm.trans (aluImm_eq op v s))
  | aluMem op m => exact aluMem_next h
  | store op m =>
    cases op with
    | sta => exact storeMem_next h (fun _ _ => rfl) (fun _ _ => rfl)
    | stz => exact storeMem_next h (fun _ _ => rfl) (fun _ _ => rfl)
    | stx => exact (storeMem_next h (fun _ _ => rfl) (fun _ _ => by simp)).trans (by rw [storedAt_loadIdx]; rfl)
    | sty => exact (storeMem_next h (fun _ _ => rfl) (fun _ _ => by simp)).trans (by rw [storedAt_loadIdx]; rfl)
  | rmwAcc op => exact Host.Outcome.next.inj (h.symm.trans (rmwAcc_eq op s))
  | rmwMem op m => exact rmwMem_next h
  | bitImm v => exact Host.Outcome.next.inj (h.symm.trans (bitImm_eq v s))
  | bitMem m => exact bitMem_next h
  | ldIdxImm i v => exact Host.Outcome.next.inj (h.symm.trans (ldIdxImm_eq i v s))
  | ldIdxMem i m => exact ldIdxMem_next h
  | cpIdxImm i v => exact Host.Outcome.next.inj (h.symm.trans (cpIdxImm_eq i v s))
  | cpIdxMem i m => exact cpIdxMem_next h
  | stepIdx i up => exact Host.Outcome.next.inj (h.symm.trans (stepIdx_eq i up s))
  | implied k f => exact Host.Outcome.next.inj (h.symm.trans (implied_eq k f s))
  | push op =>
    exact pushAt_next h (by cases op <;> exact fun _ _ => rfl) (by cases op <;> intro n k <;> simp [PushOp.value])
  | pull op => exact pullAt_next h (by cases op <;> exact fun _ _ => rfl)
  | pla => exact execPla_next h
  | jmpAbs a => exact Host.Outcome.next.inj (h.symm.trans rfl)
  | jmpLong a => exact Host.Outcome.next.inj (h.symm.trans rfl)
  | jmpInd a => exact jumpIndirect_next h
  | jsr a => exact callSubroutine_next h
  | rts => exact returnSubroutine_next h
  | rti => exact returnInterrupt_next h
  | branch c d =>
    exact Host.Outcome.next.inj (h.symm.trans (branch_eq c.holds d s (by cases c <;> exact fun _ _ => rfl)))

/-- The same of `exec`: a guest instruction that goes on leaves its pattern's registers and memory, and nothing else
changes. -/
theorem exec_guest_next {i : Instr} {s t : State} (hi : isGuest i = true) (h : exec i s = .next t) :
    ∃ p, patternOf i = some p ∧ t = { s with r := p.regs s, mem := p.memory s, ending := p.ends } := by
  obtain ⟨p, hp⟩ := patternOf_isGuest hi
  exact ⟨p, hp, Pattern.run_next ((exec_patternOf hp s).symm.trans h)⟩

end Sys2Proof.Machine
end

