-- ==== Sys2Proof/Laws/PerInstr.lean ====
section
/-! SUPPORT. The round trip of the encoding, one lemma an instruction: decoding what the encoder writes for it gives it back, with
every operand at every value the encoding admits. -/

namespace Sys2Proof.Laws.RoundTrip

/-- Decoding the encoding of a well-formed instruction gives it back, in every decoding context. -/
def Statement (i : Instr) : Prop := ∀ c : Ctx, i.wellFormed c = true → decode c (encode c i) = .ok i

theorem ofGuest {c : Ctx} {bytes : List Byte} {i : Instr} (h : decodeGuest c bytes = .ok (i, [])) :
    decode c (.guest bytes) = .ok i := by
  simp only [decode, h]

theorem node1 {c : Ctx} {t : BitVec 16} {a : Handle} {k : Handle → Instr} {x y : Handle}
    (h : ∀ w : Node, Node.tag w = t → decodeNode w = .ok (k (Node.arg0 w))) :
    decode c (.node (packNode t a x y)) = .ok (k a) := by
  simp only [decode, h _ (packNode_tag t a x y), packNode_arg0]

theorem node2 {c : Ctx} {t : BitVec 16} {a b : Handle} {k : Handle → Handle → Instr} {x : Handle}
    (h : ∀ w : Node, Node.tag w = t → decodeNode w = .ok (k (Node.arg0 w) (Node.arg1 w))) :
    decode c (.node (packNode t a b x)) = .ok (k a b) := by
  simp only [decode, h _ (packNode_tag t a b x), packNode_arg0, packNode_arg1]

theorem node3 {c : Ctx} {t : BitVec 16} {a b d : Handle} {k : Handle → Handle → Handle → Instr}
    (h : ∀ w : Node, Node.tag w = t → decodeNode w = .ok (k (Node.arg0 w) (Node.arg1 w) (Node.arg2 w))) :
    decode c (.node (packNode t a b d)) = .ok (k a b d) := by
  simp only [decode, h _ (packNode_tag t a b d), packNode_arg0, packNode_arg1, packNode_arg2]

theorem brk : Statement .brk := fun _ _ => rfl
theorem oraIndX (d : Byte) : Statement (.oraIndX d) := fun _ _ => rfl
theorem cop : Statement .cop := fun _ _ => rfl
theorem oraSr (off : Word16) : Statement (.oraSr off) := fun _ h => ofGuest (operandSr_bytes .oraSr h)
theorem tsbDir : Statement .tsbDir := fun _ _ => rfl
theorem oraDir (d : Byte) : Statement (.oraDir d) := fun _ _ => rfl
theorem aslDir (d : Byte) : Statement (.aslDir d) := fun _ _ => rfl
theorem oraIndLong (d : Byte) : Statement (.oraIndLong d) := fun _ _ => rfl
theorem php : Statement .php := fun _ _ => rfl
theorem oraImm (v : Word16) : Statement (.oraImm v) := fun _ h => ofGuest (operandImm_bytes .oraImm h)
theorem aslAcc : Statement .aslAcc := fun _ _ => rfl
theorem phd : Statement .phd := fun _ _ => rfl
theorem tsbAbs : Statement .tsbAbs := fun _ _ => rfl
theorem oraAbs (a : Word16) : Statement (.oraAbs a) := fun _ _ => ofGuest (operand16_bytes .oraAbs _)
theorem aslAbs (a : Word16) : Statement (.aslAbs a) := fun _ _ => ofGuest (operand16_bytes .aslAbs _)
theorem oraLong (a : Addr) : Statement (.oraLong a) := fun _ _ => ofGuest (operand24_bytes .oraLong _)
theorem bpl (d : Byte) : Statement (.bpl d) := fun _ _ => rfl
theorem oraIndY (d : Byte) : Statement (.oraIndY d) := fun _ _ => rfl
theorem oraInd (d : Byte) : Statement (.oraInd d) := fun _ _ => rfl
theorem oraSrIndY : Statement .oraSrIndY := fun _ _ => rfl
theorem trbDir : Statement .trbDir := fun _ _ => rfl
theorem oraDirX (d : Byte) : Statement (.oraDirX d) := fun _ _ => rfl
theorem aslDirX (d : Byte) : Statement (.aslDirX d) := fun _ _ => rfl
theorem oraIndLongY : Statement .oraIndLongY := fun _ _ => rfl
theorem clc : Statement .clc := fun _ _ => rfl
theorem oraAbsY (a : Word16) : Statement (.oraAbsY a) := fun _ _ => ofGuest (operand16_bytes .oraAbsY _)
theorem incAcc : Statement .incAcc := fun _ _ => rfl
theorem tcs : Statement .tcs := fun _ _ => rfl
theorem trbAbs : Statement .trbAbs := fun _ _ => rfl
theorem oraAbsX (a : Word16) : Statement (.oraAbsX a) := fun _ _ => ofGuest (operand16_bytes .oraAbsX _)
theorem aslAbsX (a : Word16) : Statement (.aslAbsX a) := fun _ _ => ofGuest (operand16_bytes .aslAbsX _)
theorem oraLongX (a : Addr) : Statement (.oraLongX a) := fun _ _ => ofGuest (operand24_bytes .oraLongX _)
theorem jsrAbs (a : Word16) : Statement (.jsrAbs a) := fun _ _ => ofGuest (operand16_bytes .jsrAbs _)
theorem andIndX (d : Byte) : Statement (.andIndX d) := fun _ _ => rfl
theorem jsl : Statement .jsl := fun _ _ => rfl
theorem andSr (off : Word16) : Statement (.andSr off) := fun _ h => ofGuest (operandSr_bytes .andSr h)
theorem bitDir (d : Byte) : Statement (.bitDir d) := fun _ _ => rfl
theorem andDir (d : Byte) : Statement (.andDir d) := fun _ _ => rfl
theorem rolDir (d : Byte) : Statement (.rolDir d) := fun _ _ => rfl
theorem andIndLong (d : Byte) : Statement (.andIndLong d) := fun _ _ => rfl
theorem plp : Statement .plp := fun _ _ => rfl
theorem andImm (v : Word16) : Statement (.andImm v) := fun _ h => ofGuest (operandImm_bytes .andImm h)
theorem rolAcc : Statement .rolAcc := fun _ _ => rfl
theorem pld : Statement .pld := fun _ _ => rfl
theorem bitAbs (a : Word16) : Statement (.bitAbs a) := fun _ _ => ofGuest (operand16_bytes .bitAbs _)
theorem andAbs (a : Word16) : Statement (.andAbs a) := fun _ _ => ofGuest (operand16_bytes .andAbs _)
theorem rolAbs (a : Word16) : Statement (.rolAbs a) := fun _ _ => ofGuest (operand16_bytes .rolAbs _)
theorem andLong (a : Addr) : Statement (.andLong a) := fun _ _ => ofGuest (operand24_bytes .andLong _)
theorem bmi (d : Byte) : Statement (.bmi d) := fun _ _ => rfl
theorem andIndY (d : Byte) : Statement (.andIndY d) := fun _ _ => rfl
theorem andInd (d : Byte) : Statement (.andInd d) := fun _ _ => rfl
theorem andSrIndY : Statement .andSrIndY := fun _ _ => rfl
theorem bitDirX (d : Byte) : Statement (.bitDirX d) := fun _ _ => rfl
theorem andDirX (d : Byte) : Statement (.andDirX d) := fun _ _ => rfl
theorem rolDirX (d : Byte) : Statement (.rolDirX d) := fun _ _ => rfl
theorem andIndLongY : Statement .andIndLongY := fun _ _ => rfl
theorem sec : Statement .sec := fun _ _ => rfl
theorem andAbsY (a : Word16) : Statement (.andAbsY a) := fun _ _ => ofGuest (operand16_bytes .andAbsY _)
theorem decAcc : Statement .decAcc := fun _ _ => rfl
theorem tsc : Statement .tsc := fun _ _ => rfl
theorem bitAbsX (a : Word16) : Statement (.bitAbsX a) := fun _ _ => ofGuest (operand16_bytes .bitAbsX _)
theorem andAbsX (a : Word16) : Statement (.andAbsX a) := fun _ _ => ofGuest (operand16_bytes .andAbsX _)
theorem rolAbsX (a : Word16) : Statement (.rolAbsX a) := fun _ _ => ofGuest (operand16_bytes .rolAbsX _)
theorem andLongX (a : Addr) : Statement (.andLongX a) := fun _ _ => ofGuest (operand24_bytes .andLongX _)
theorem rti : Statement .rti := fun _ _ => rfl
theorem eorIndX (d : Byte) : Statement (.eorIndX d) := fun _ _ => rfl
theorem wdm : Statement .wdm := fun _ _ => rfl
theorem eorSr (off : Word16) : Statement (.eorSr off) := fun _ h => ofGuest (operandSr_bytes .eorSr h)
theorem mvp : Statement .mvp := fun _ _ => rfl
theorem eorDir (d : Byte) : Statement (.eorDir d) := fun _ _ => rfl
theorem lsrDir (d : Byte) : Statement (.lsrDir d) := fun _ _ => rfl
theorem eorIndLong (d : Byte) : Statement (.eorIndLong d) := fun _ _ => rfl
theorem pha : Statement .pha := fun _ _ => rfl
theorem eorImm (v : Word16) : Statement (.eorImm v) := fun _ h => ofGuest (operandImm_bytes .eorImm h)
theorem lsrAcc : Statement .lsrAcc := fun _ _ => rfl
theorem phk : Statement .phk := fun _ _ => rfl
theorem jmpAbs (a : Word16) : Statement (.jmpAbs a) := fun _ _ => ofGuest (operand16_bytes .jmpAbs _)
theorem eorAbs (a : Word16) : Statement (.eorAbs a) := fun _ _ => ofGuest (operand16_bytes .eorAbs _)
theorem lsrAbs (a : Word16) : Statement (.lsrAbs a) := fun _ _ => ofGuest (operand16_bytes .lsrAbs _)
theorem eorLong (a : Addr) : Statement (.eorLong a) := fun _ _ => ofGuest (operand24_bytes .eorLong _)
theorem bvc (d : Byte) : Statement (.bvc d) := fun _ _ => rfl
theorem eorIndY (d : Byte) : Statement (.eorIndY d) := fun _ _ => rfl
theorem eorInd (d : Byte) : Statement (.eorInd d) := fun _ _ => rfl
theorem eorSrIndY : Statement .eorSrIndY := fun _ _ => rfl
theorem mvn : Statement .mvn := fun _ _ => rfl
theorem eorDirX (d : Byte) : Statement (.eorDirX d) := fun _ _ => rfl
theorem lsrDirX (d : Byte) : Statement (.lsrDirX d) := fun _ _ => rfl
theorem eorIndLongY : Statement .eorIndLongY := fun _ _ => rfl
theorem cli : Statement .cli := fun _ _ => rfl
theorem eorAbsY (a : Word16) : Statement (.eorAbsY a) := fun _ _ => ofGuest (operand16_bytes .eorAbsY _)
theorem phy : Statement .phy := fun _ _ => rfl
theorem tcd : Statement .tcd := fun _ _ => rfl
theorem jmpLong (a : Addr) : Statement (.jmpLong a) := fun _ _ => ofGuest (operand24_bytes .jmpLong _)
theorem eorAbsX (a : Word16) : Statement (.eorAbsX a) := fun _ _ => ofGuest (operand16_bytes .eorAbsX _)
theorem lsrAbsX (a : Word16) : Statement (.lsrAbsX a) := fun _ _ => ofGuest (operand16_bytes .lsrAbsX _)
theorem eorLongX (a : Addr) : Statement (.eorLongX a) := fun _ _ => ofGuest (operand24_bytes .eorLongX _)
theorem rts : Statement .rts := fun _ _ => rfl
theorem adcIndX (d : Byte) : Statement (.adcIndX d) := fun _ _ => rfl
theorem per : Statement .per := fun _ _ => rfl
theorem adcSr (off : Word16) : Statement (.adcSr off) := fun _ h => ofGuest (operandSr_bytes .adcSr h)
theorem stzDir (d : Byte) : Statement (.stzDir d) := fun _ _ => rfl
theorem adcDir (d : Byte) : Statement (.adcDir d) := fun _ _ => rfl
theorem rorDir (d : Byte) : Statement (.rorDir d) := fun _ _ => rfl
theorem adcIndLong (d : Byte) : Statement (.adcIndLong d) := fun _ _ => rfl
theorem pla : Statement .pla := fun _ _ => rfl
theorem adcImm (v : Word16) : Statement (.adcImm v) := fun _ h => ofGuest (operandImm_bytes .adcImm h)
theorem rorAcc : Statement .rorAcc := fun _ _ => rfl
theorem rtl : Statement .rtl := fun _ _ => rfl
theorem jmpAbsInd (a : Word16) : Statement (.jmpAbsInd a) := fun _ _ => ofGuest (operand16_bytes .jmpAbsInd _)
theorem adcAbs (a : Word16) : Statement (.adcAbs a) := fun _ _ => ofGuest (operand16_bytes .adcAbs _)
theorem rorAbs (a : Word16) : Statement (.rorAbs a) := fun _ _ => ofGuest (operand16_bytes .rorAbs _)
theorem adcLong (a : Addr) : Statement (.adcLong a) := fun _ _ => ofGuest (operand24_bytes .adcLong _)
theorem bvs (d : Byte) : Statement (.bvs d) := fun _ _ => rfl
theorem adcIndY (d : Byte) : Statement (.adcIndY d) := fun _ _ => rfl
theorem adcInd (d : Byte) : Statement (.adcInd d) := fun _ _ => rfl
theorem adcSrIndY : Statement .adcSrIndY := fun _ _ => rfl
theorem stzDirX (d : Byte) : Statement (.stzDirX d) := fun _ _ => rfl
theorem adcDirX (d : Byte) : Statement (.adcDirX d) := fun _ _ => rfl
theorem rorDirX (d : Byte) : Statement (.rorDirX d) := fun _ _ => rfl
theorem adcIndLongY : Statement .adcIndLongY := fun _ _ => rfl
theorem sei : Statement .sei := fun _ _ => rfl
theorem adcAbsY (a : Word16) : Statement (.adcAbsY a) := fun _ _ => ofGuest (operand16_bytes .adcAbsY _)
theorem ply : Statement .ply := fun _ _ => rfl
theorem tdc : Statement .tdc := fun _ _ => rfl
theorem jmpAbsIndX : Statement .jmpAbsIndX := fun _ _ => rfl
theorem adcAbsX (a : Word16) : Statement (.adcAbsX a) := fun _ _ => ofGuest (operand16_bytes .adcAbsX _)
theorem rorAbsX (a : Word16) : Statement (.rorAbsX a) := fun _ _ => ofGuest (operand16_bytes .rorAbsX _)
theorem adcLongX (a : Addr) : Statement (.adcLongX a) := fun _ _ => ofGuest (operand24_bytes .adcLongX _)
theorem bra (d : Byte) : Statement (.bra d) := fun _ _ => rfl
theorem staIndX (d : Byte) : Statement (.staIndX d) := fun _ _ => rfl
theorem brl : Statement .brl := fun _ _ => rfl
theorem staSr (off : Word16) : Statement (.staSr off) := fun _ h => ofGuest (operandSr_bytes .staSr h)
theorem styDir (d : Byte) : Statement (.styDir d) := fun _ _ => rfl
theorem staDir (d : Byte) : Statement (.staDir d) := fun _ _ => rfl
theorem stxDir (d : Byte) : Statement (.stxDir d) := fun _ _ => rfl
theorem staIndLong (d : Byte) : Statement (.staIndLong d) := fun _ _ => rfl
theorem dey : Statement .dey := fun _ _ => rfl
theorem bitImm (v : Word16) : Statement (.bitImm v) := fun _ h => ofGuest (operandImm_bytes .bitImm h)
theorem txa : Statement .txa := fun _ _ => rfl
theorem phb : Statement .phb := fun _ _ => rfl
theorem styAbs (a : Word16) : Statement (.styAbs a) := fun _ _ => ofGuest (operand16_bytes .styAbs _)
theorem staAbs (a : Word16) : Statement (.staAbs a) := fun _ _ => ofGuest (operand16_bytes .staAbs _)
theorem stxAbs (a : Word16) : Statement (.stxAbs a) := fun _ _ => ofGuest (operand16_bytes .stxAbs _)
theorem staLong (a : Addr) : Statement (.staLong a) := fun _ _ => ofGuest (operand24_bytes .staLong _)
theorem bcc (d : Byte) : Statement (.bcc d) := fun _ _ => rfl
theorem staIndY (d : Byte) : Statement (.staIndY d) := fun _ _ => rfl
theorem staInd (d : Byte) : Statement (.staInd d) := fun _ _ => rfl
theorem staSrIndY : Statement .staSrIndY := fun _ _ => rfl
theorem styDirX (d : Byte) : Statement (.styDirX d) := fun _ _ => rfl
theorem staDirX (d : Byte) : Statement (.staDirX d) := fun _ _ => rfl
theorem stxDirY (d : Byte) : Statement (.stxDirY d) := fun _ _ => rfl
theorem staIndLongY : Statement .staIndLongY := fun _ _ => rfl
theorem tya : Statement .tya := fun _ _ => rfl
theorem staAbsY (a : Word16) : Statement (.staAbsY a) := fun _ _ => ofGuest (operand16_bytes .staAbsY _)
theorem txs : Statement .txs := fun _ _ => rfl
theorem txy : Statement .txy := fun _ _ => rfl
theorem stzAbs (a : Word16) : Statement (.stzAbs a) := fun _ _ => ofGuest (operand16_bytes .stzAbs _)
theorem staAbsX (a : Word16) : Statement (.staAbsX a) := fun _ _ => ofGuest (operand16_bytes .staAbsX _)
theorem stzAbsX (a : Word16) : Statement (.stzAbsX a) := fun _ _ => ofGuest (operand16_bytes .stzAbsX _)
theorem staLongX (a : Addr) : Statement (.staLongX a) := fun _ _ => ofGuest (operand24_bytes .staLongX _)
theorem ldyImm (v : Word16) : Statement (.ldyImm v) := fun _ h => ofGuest (operandImm_bytes .ldyImm h)
theorem ldaIndX (d : Byte) : Statement (.ldaIndX d) := fun _ _ => rfl
theorem ldxImm (v : Word16) : Statement (.ldxImm v) := fun _ h => ofGuest (operandImm_bytes .ldxImm h)
theorem ldaSr (off : Word16) : Statement (.ldaSr off) := fun _ h => ofGuest (operandSr_bytes .ldaSr h)
theorem ldyDir (d : Byte) : Statement (.ldyDir d) := fun _ _ => rfl
theorem ldaDir (d : Byte) : Statement (.ldaDir d) := fun _ _ => rfl
theorem ldxDir (d : Byte) : Statement (.ldxDir d) := fun _ _ => rfl
theorem ldaIndLong (d : Byte) : Statement (.ldaIndLong d) := fun _ _ => rfl
theorem tay : Statement .tay := fun _ _ => rfl
theorem ldaImm (v : Word16) : Statement (.ldaImm v) := fun _ h => ofGuest (operandImm_bytes .ldaImm h)
theorem tax : Statement .tax := fun _ _ => rfl
theorem plb : Statement .plb := fun _ _ => rfl
theorem ldyAbs (a : Word16) : Statement (.ldyAbs a) := fun _ _ => ofGuest (operand16_bytes .ldyAbs _)
theorem ldaAbs (a : Word16) : Statement (.ldaAbs a) := fun _ _ => ofGuest (operand16_bytes .ldaAbs _)
theorem ldxAbs (a : Word16) : Statement (.ldxAbs a) := fun _ _ => ofGuest (operand16_bytes .ldxAbs _)
theorem ldaLong (a : Addr) : Statement (.ldaLong a) := fun _ _ => ofGuest (operand24_bytes .ldaLong _)
theorem bcs (d : Byte) : Statement (.bcs d) := fun _ _ => rfl
theorem ldaIndY (d : Byte) : Statement (.ldaIndY d) := fun _ _ => rfl
theorem ldaInd (d : Byte) : Statement (.ldaInd d) := fun _ _ => rfl
theorem ldaSrIndY : Statement .ldaSrIndY := fun _ _ => rfl
theorem ldyDirX (d : Byte) : Statement (.ldyDirX d) := fun _ _ => rfl
theorem ldaDirX (d : Byte) : Statement (.ldaDirX d) := fun _ _ => rfl
theorem ldxDirY (d : Byte) : Statement (.ldxDirY d) := fun _ _ => rfl
theorem ldaIndLongY : Statement .ldaIndLongY := fun _ _ => rfl
theorem clv : Statement .clv := fun _ _ => rfl
theorem ldaAbsY (a : Word16) : Statement (.ldaAbsY a) := fun _ _ => ofGuest (operand16_bytes .ldaAbsY _)
theorem tsx : Statement .tsx := fun _ _ => rfl
theorem tyx : Statement .tyx := fun _ _ => rfl
theorem ldyAbsX (a : Word16) : Statement (.ldyAbsX a) := fun _ _ => ofGuest (operand16_bytes .ldyAbsX _)
theorem ldaAbsX (a : Word16) : Statement (.ldaAbsX a) := fun _ _ => ofGuest (operand16_bytes .ldaAbsX _)
theorem ldxAbsY (a : Word16) : Statement (.ldxAbsY a) := fun _ _ => ofGuest (operand16_bytes .ldxAbsY _)
theorem ldaLongX (a : Addr) : Statement (.ldaLongX a) := fun _ _ => ofGuest (operand24_bytes .ldaLongX _)
theorem cpyImm (v : Word16) : Statement (.cpyImm v) := fun _ h => ofGuest (operandImm_bytes .cpyImm h)
theorem cmpIndX (d : Byte) : Statement (.cmpIndX d) := fun _ _ => rfl
theorem rep : Statement .rep := fun _ _ => rfl
theorem cmpSr (off : Word16) : Statement (.cmpSr off) := fun _ h => ofGuest (operandSr_bytes .cmpSr h)
theorem cpyDir (d : Byte) : Statement (.cpyDir d) := fun _ _ => rfl
theorem cmpDir (d : Byte) : Statement (.cmpDir d) := fun _ _ => rfl
theorem decDir (d : Byte) : Statement (.decDir d) := fun _ _ => rfl
theorem cmpIndLong (d : Byte) : Statement (.cmpIndLong d) := fun _ _ => rfl
theorem iny : Statement .iny := fun _ _ => rfl
theorem cmpImm (v : Word16) : Statement (.cmpImm v) := fun _ h => ofGuest (operandImm_bytes .cmpImm h)
theorem dex : Statement .dex := fun _ _ => rfl
theorem wai : Statement .wai := fun _ _ => rfl
theorem cpyAbs (a : Word16) : Statement (.cpyAbs a) := fun _ _ => ofGuest (operand16_bytes .cpyAbs _)
theorem cmpAbs (a : Word16) : Statement (.cmpAbs a) := fun _ _ => ofGuest (operand16_bytes .cmpAbs _)
theorem decAbs (a : Word16) : Statement (.decAbs a) := fun _ _ => ofGuest (operand16_bytes .decAbs _)
theorem cmpLong (a : Addr) : Statement (.cmpLong a) := fun _ _ => ofGuest (operand24_bytes .cmpLong _)
theorem bne (d : Byte) : Statement (.bne d) := fun _ _ => rfl
theorem cmpIndY (d : Byte) : Statement (.cmpIndY d) := fun _ _ => rfl
theorem cmpInd (d : Byte) : Statement (.cmpInd d) := fun _ _ => rfl
theorem cmpSrIndY : Statement .cmpSrIndY := fun _ _ => rfl
theorem pei : Statement .pei := fun _ _ => rfl
theorem cmpDirX (d : Byte) : Statement (.cmpDirX d) := fun _ _ => rfl
theorem decDirX (d : Byte) : Statement (.decDirX d) := fun _ _ => rfl
theorem cmpIndLongY : Statement .cmpIndLongY := fun _ _ => rfl
theorem cld : Statement .cld := fun _ _ => rfl
theorem cmpAbsY (a : Word16) : Statement (.cmpAbsY a) := fun _ _ => ofGuest (operand16_bytes .cmpAbsY _)
theorem phx : Statement .phx := fun _ _ => rfl
theorem stp : Statement .stp := fun _ _ => rfl
theorem jml : Statement .jml := fun _ _ => rfl
theorem cmpAbsX (a : Word16) : Statement (.cmpAbsX a) := fun _ _ => ofGuest (operand16_bytes .cmpAbsX _)
theorem decAbsX (a : Word16) : Statement (.decAbsX a) := fun _ _ => ofGuest (operand16_bytes .decAbsX _)
theorem cmpLongX (a : Addr) : Statement (.cmpLongX a) := fun _ _ => ofGuest (operand24_bytes .cmpLongX _)
theorem cpxImm (v : Word16) : Statement (.cpxImm v) := fun _ h => ofGuest (operandImm_bytes .cpxImm h)
theorem sbcIndX (d : Byte) : Statement (.sbcIndX d) := fun _ _ => rfl
theorem sep : Statement .sep := fun _ _ => rfl
theorem sbcSr (off : Word16) : Statement (.sbcSr off) := fun _ h => ofGuest (operandSr_bytes .sbcSr h)
theorem cpxDir (d : Byte) : Statement (.cpxDir d) := fun _ _ => rfl
theorem sbcDir (d : Byte) : Statement (.sbcDir d) := fun _ _ => rfl
theorem incDir (d : Byte) : Statement (.incDir d) := fun _ _ => rfl
theorem sbcIndLong (d : Byte) : Statement (.sbcIndLong d) := fun _ _ => rfl
theorem inx : Statement .inx := fun _ _ => rfl
theorem sbcImm (v : Word16) : Statement (.sbcImm v) := fun _ h => ofGuest (operandImm_bytes .sbcImm h)
theorem nop : Statement .nop := fun _ _ => rfl
theorem xba : Statement .xba := fun _ _ => rfl
theorem cpxAbs (a : Word16) : Statement (.cpxAbs a) := fun _ _ => ofGuest (operand16_bytes .cpxAbs _)
theorem sbcAbs (a : Word16) : Statement (.sbcAbs a) := fun _ _ => ofGuest (operand16_bytes .sbcAbs _)
theorem incAbs (a : Word16) : Statement (.incAbs a) := fun _ _ => ofGuest (operand16_bytes .incAbs _)
theorem sbcLong (a : Addr) : Statement (.sbcLong a) := fun _ _ => ofGuest (operand24_bytes .sbcLong _)
theorem beq (d : Byte) : Statement (.beq d) := fun _ _ => rfl
theorem sbcIndY (d : Byte) : Statement (.sbcIndY d) := fun _ _ => rfl
theorem sbcInd (d : Byte) : Statement (.sbcInd d) := fun _ _ => rfl
theorem sbcSrIndY : Statement .sbcSrIndY := fun _ _ => rfl
theorem pea : Statement .pea := fun _ _ => rfl
theorem sbcDirX (d : Byte) : Statement (.sbcDirX d) := fun _ _ => rfl
theorem incDirX (d : Byte) : Statement (.incDirX d) := fun _ _ => rfl
theorem sbcIndLongY : Statement .sbcIndLongY := fun _ _ => rfl
theorem sed : Statement .sed := fun _ _ => rfl
theorem sbcAbsY (a : Word16) : Statement (.sbcAbsY a) := fun _ _ => ofGuest (operand16_bytes .sbcAbsY _)
theorem plx : Statement .plx := fun _ _ => rfl
theorem xce : Statement .xce := fun _ _ => rfl
theorem jsrAbsIndX : Statement .jsrAbsIndX := fun _ _ => rfl
theorem sbcAbsX (a : Word16) : Statement (.sbcAbsX a) := fun _ _ => ofGuest (operand16_bytes .sbcAbsX _)
theorem incAbsX (a : Word16) : Statement (.incAbsX a) := fun _ _ => ofGuest (operand16_bytes .incAbsX _)
theorem sbcLongX (a : Addr) : Statement (.sbcLongX a) := fun _ _ => ofGuest (operand24_bytes .sbcLongX _)
theorem irConst (numBits isSigned : Byte) (value : BitVec 32) : Statement (.irConst numBits isSigned value) := fun _ _ => by
  simp only [encode, decode, decodeNode, packConst_tag, packConst_numBits, packConst_isSigned, packConst_value,
    BitVec.toNat_ofNat, Nat.zero_mod]
theorem irConst48 (imm48 : BitVec 48) : Statement (.irConst48 imm48) := fun _ _ => by
  simp only [encode, decode, decodeNode, packConst48_tag, packConst48_imm, BitVec.toNat_ofNat, Nat.reducePow, Nat.reduceMod]
theorem irNot (a : Handle) : Statement (.irNot a) := fun _ _ =>
  node1 (k := .irNot) (fun _ h => by simp only [decodeNode, h, BitVec.toNat_ofNat, Nat.reducePow, Nat.reduceMod])
theorem irAdd (a b : Handle) : Statement (.irAdd a b) := fun _ _ =>
  node2 (k := .irAdd) (fun _ h => by simp only [decodeNode, h, BitVec.toNat_ofNat, Nat.reducePow, Nat.reduceMod])
theorem irSub (a b : Handle) : Statement (.irSub a b) := fun _ _ =>
  node2 (k := .irSub) (fun _ h => by simp only [decodeNode, h, BitVec.toNat_ofNat, Nat.reducePow, Nat.reduceMod])
theorem irAnd (a b : Handle) : Statement (.irAnd a b) := fun _ _ =>
  node2 (k := .irAnd) (fun _ h => by simp only [decodeNode, h, BitVec.toNat_ofNat, Nat.reducePow, Nat.reduceMod])
theorem irOr (a b : Handle) : Statement (.irOr a b) := fun _ _ =>
  node2 (k := .irOr) (fun _ h => by simp only [decodeNode, h, BitVec.toNat_ofNat, Nat.reducePow, Nat.reduceMod])
theorem irXor (a b : Handle) : Statement (.irXor a b) := fun _ _ =>
  node2 (k := .irXor) (fun _ h => by simp only [decodeNode, h, BitVec.toNat_ofNat, Nat.reducePow, Nat.reduceMod])
theorem irShiftLeft (a k : Handle) : Statement (.irShiftLeft a k) := fun _ _ =>
  node2 (k := .irShiftLeft) (fun _ h => by simp only [decodeNode, h, BitVec.toNat_ofNat, Nat.reducePow, Nat.reduceMod])
theorem irShiftRight (a k : Handle) : Statement (.irShiftRight a k) := fun _ _ =>
  node2 (k := .irShiftRight) (fun _ h => by simp only [decodeNode, h, BitVec.toNat_ofNat, Nat.reducePow, Nat.reduceMod])
theorem irCat (a b : Handle) : Statement (.irCat a b) := fun _ _ =>
  node2 (k := .irCat) (fun _ h => by simp only [decodeNode, h, BitVec.toNat_ofNat, Nat.reducePow, Nat.reduceMod])
theorem irExtract (a lsb w : Handle) : Statement (.irExtract a lsb w) := fun _ _ =>
  node3 (k := .irExtract) (fun _ h => by simp only [decodeNode, h, BitVec.toNat_ofNat, Nat.reducePow, Nat.reduceMod])
theorem irZext (a n : Handle) : Statement (.irZext a n) := fun _ _ =>
  node2 (k := .irZext) (fun _ h => by simp only [decodeNode, h, BitVec.toNat_ofNat, Nat.reducePow, Nat.reduceMod])
theorem irEq (a b : Handle) : Statement (.irEq a b) := fun _ _ =>
  node2 (k := .irEq) (fun _ h => by simp only [decodeNode, h, BitVec.toNat_ofNat, Nat.reducePow, Nat.reduceMod])
theorem irNeq (a b : Handle) : Statement (.irNeq a b) := fun _ _ =>
  node2 (k := .irNeq) (fun _ h => by simp only [decodeNode, h, BitVec.toNat_ofNat, Nat.reducePow, Nat.reduceMod])
theorem irTernary (cond a b : Handle) : Statement (.irTernary cond a b) := fun _ _ =>
  node3 (k := .irTernary) (fun _ h => by simp only [decodeNode, h, BitVec.toNat_ofNat, Nat.reducePow, Nat.reduceMod])
theorem irMemState (bus cyc alive : Handle) : Statement (.irMemState bus cyc alive) := fun _ _ =>
  node3 (k := .irMemState) (fun _ h => by simp only [decodeNode, h, BitVec.toNat_ofNat, Nat.reducePow, Nat.reduceMod])
theorem irLoad8 (ms addr : Handle) : Statement (.irLoad8 ms addr) := fun _ _ =>
  node2 (k := .irLoad8) (fun _ h => by simp only [decodeNode, h, BitVec.toNat_ofNat, Nat.reducePow, Nat.reduceMod])
theorem irLoad16 (ms addr : Handle) : Statement (.irLoad16 ms addr) := fun _ _ =>
  node2 (k := .irLoad16) (fun _ h => by simp only [decodeNode, h, BitVec.toNat_ofNat, Nat.reducePow, Nat.reduceMod])
theorem irLoad32 (ms addr : Handle) : Statement (.irLoad32 ms addr) := fun _ _ =>
  node2 (k := .irLoad32) (fun _ h => by simp only [decodeNode, h, BitVec.toNat_ofNat, Nat.reducePow, Nat.reduceMod])
theorem irLoad64 (ms addr : Handle) : Statement (.irLoad64 ms addr) := fun _ _ =>
  node2 (k := .irLoad64) (fun _ h => by simp only [decodeNode, h, BitVec.toNat_ofNat, Nat.reducePow, Nat.reduceMod])
theorem irStore8 (ms addr value : Handle) : Statement (.irStore8 ms addr value) := fun _ _ =>
  node3 (k := .irStore8) (fun _ h => by simp only [decodeNode, h, BitVec.toNat_ofNat, Nat.reducePow, Nat.reduceMod])
theorem irStore16 (ms addr value : Handle) : Statement (.irStore16 ms addr value) := fun _ _ =>
  node3 (k := .irStore16) (fun _ h => by simp only [decodeNode, h, BitVec.toNat_ofNat, Nat.reducePow, Nat.reduceMod])
theorem irStore32 (ms addr value : Handle) : Statement (.irStore32 ms addr value) := fun _ _ =>
  node3 (k := .irStore32) (fun _ h => by simp only [decodeNode, h, BitVec.toNat_ofNat, Nat.reducePow, Nat.reduceMod])
theorem irStore64 (ms addr value : Handle) : Statement (.irStore64 ms addr value) := fun _ _ =>
  node3 (k := .irStore64) (fun _ h => by simp only [decodeNode, h, BitVec.toNat_ofNat, Nat.reducePow, Nat.reduceMod])
theorem irStateRead (offset size : Handle) : Statement (.irStateRead offset size) := fun _ _ =>
  node2 (k := .irStateRead) (fun _ h => by simp only [decodeNode, h, BitVec.toNat_ofNat, Nat.reducePow, Nat.reduceMod])
theorem irStateWrite (offset size value : Handle) : Statement (.irStateWrite offset size value) := fun _ _ =>
  node3 (k := .irStateWrite) (fun _ h => by simp only [decodeNode, h, BitVec.toNat_ofNat, Nat.reducePow, Nat.reduceMod])
theorem irAssert (value expected : Handle) : Statement (.irAssert value expected) := fun _ _ =>
  node2 (k := .irAssert) (fun _ h => by simp only [decodeNode, h, BitVec.toNat_ofNat, Nat.reducePow, Nat.reduceMod])

end Sys2Proof.Laws.RoundTrip
end

