-- ==== Sys2Proof/Machine/Assembler.lean ====
section
/-! DEFINITION. The assembler text of an instruction (30_encoding.md R101, R115, R116) and the written form of an IR node
(00_scope.md R20): functions from an instruction to text, which no step reads. -/

namespace Sys2Proof.Machine

/-- The name an instruction is written with (R112, R115; an IR op's own name, R20, R123). -/
def nameText : Instr → String
  | .irConst _ _ _ => "Const"
  | .irConst48 _ => "Const48"
  | .irNot _ => "Not"
  | .irAdd _ _ => "Add"
  | .irSub _ _ => "Sub"
  | .irAnd _ _ => "And"
  | .irOr _ _ => "Or"
  | .irXor _ _ => "Xor"
  | .irShiftLeft _ _ => "ShiftLeft"
  | .irShiftRight _ _ => "ShiftRight"
  | .irCat _ _ => "Cat"
  | .irExtract _ _ _ => "Extract"
  | .irZext _ _ => "Zext"
  | .irEq _ _ => "Eq"
  | .irNeq _ _ => "Neq"
  | .irTernary _ _ _ => "Ternary"
  | .irMemState _ _ _ => "MemState"
  | .irLoad8 _ _ => "Load8"
  | .irLoad16 _ _ => "Load16"
  | .irLoad32 _ _ => "Load32"
  | .irLoad64 _ _ => "Load64"
  | .irStore8 _ _ _ => "Store8"
  | .irStore16 _ _ _ => "Store16"
  | .irStore32 _ _ _ => "Store32"
  | .irStore64 _ _ _ => "Store64"
  | .irStateRead _ _ => "StateRead"
  | .irStateWrite _ _ _ => "StateWrite"
  | .irAssert _ _ => "Assert"
  | .oraIndX _ | .oraSr _ | .oraDir _ | .oraIndLong _ | .oraImm _ | .oraAbs _ | .oraLong _ | .oraIndY _ | .oraInd _
  | .oraDirX _ | .oraAbsY _ | .oraAbsX _ | .oraLongX _ | .oraSrIndY | .oraIndLongY => "ORA"
  | .aslDir _ | .aslAbs _ | .aslDirX _ | .aslAbsX _ | .aslAcc => "ASL"
  | .bpl _ => "BPL"
  | .jsrAbs _ | .jsrAbsIndX => "JSR"
  | .andIndX _ | .andSr _ | .andDir _ | .andIndLong _ | .andImm _ | .andAbs _ | .andLong _ | .andIndY _ | .andInd _
  | .andDirX _ | .andAbsY _ | .andAbsX _ | .andLongX _ | .andSrIndY | .andIndLongY => "AND"
  | .bitDir _ | .bitAbs _ | .bitDirX _ | .bitAbsX _ | .bitImm _ => "BIT"
  | .rolDir _ | .rolAbs _ | .rolDirX _ | .rolAbsX _ | .rolAcc => "ROL"
  | .bmi _ => "BMI"
  | .eorIndX _ | .eorSr _ | .eorDir _ | .eorIndLong _ | .eorImm _ | .eorAbs _ | .eorLong _ | .eorIndY _ | .eorInd _
  | .eorDirX _ | .eorAbsY _ | .eorAbsX _ | .eorLongX _ | .eorSrIndY | .eorIndLongY => "EOR"
  | .lsrDir _ | .lsrAbs _ | .lsrDirX _ | .lsrAbsX _ | .lsrAcc => "LSR"
  | .jmpAbs _ | .jmpLong _ | .jmpAbsInd _ | .jmpAbsIndX => "JMP"
  | .bvc _ => "BVC"
  | .adcIndX _ | .adcSr _ | .adcDir _ | .adcIndLong _ | .adcImm _ | .adcAbs _ | .adcLong _ | .adcIndY _ | .adcInd _
  | .adcDirX _ | .adcAbsY _ | .adcAbsX _ | .adcLongX _ | .adcSrIndY | .adcIndLongY => "ADC"
  | .stzDir _ | .stzDirX _ | .stzAbs _ | .stzAbsX _ => "STZ"
  | .rorDir _ | .rorAbs _ | .rorDirX _ | .rorAbsX _ | .rorAcc => "ROR"
  | .bvs _ => "BVS"
  | .bra _ => "BRA"
  | .staIndX _ | .staSr _ | .staDir _ | .staIndLong _ | .staAbs _ | .staLong _ | .staIndY _ | .staInd _ | .staDirX _
  | .staAbsY _ | .staAbsX _ | .staLongX _ | .staSrIndY | .staIndLongY => "STA"
  | .styDir _ | .styAbs _ | .styDirX _ => "STY"
  | .stxDir _ | .stxAbs _ | .stxDirY _ => "STX"
  | .bcc _ => "BCC"
  | .ldyImm _ | .ldyDir _ | .ldyAbs _ | .ldyDirX _ | .ldyAbsX _ => "LDY"
  | .ldaIndX _ | .ldaSr _ | .ldaDir _ | .ldaIndLong _ | .ldaImm _ | .ldaAbs _ | .ldaLong _ | .ldaIndY _ | .ldaInd _
  | .ldaDirX _ | .ldaAbsY _ | .ldaAbsX _ | .ldaLongX _ | .ldaSrIndY | .ldaIndLongY => "LDA"
  | .ldxImm _ | .ldxDir _ | .ldxAbs _ | .ldxDirY _ | .ldxAbsY _ => "LDX"
  | .bcs _ => "BCS"
  | .cpyImm _ | .cpyDir _ | .cpyAbs _ => "CPY"
  | .cmpIndX _ | .cmpSr _ | .cmpDir _ | .cmpIndLong _ | .cmpImm _ | .cmpAbs _ | .cmpLong _ | .cmpIndY _ | .cmpInd _
  | .cmpDirX _ | .cmpAbsY _ | .cmpAbsX _ | .cmpLongX _ | .cmpSrIndY | .cmpIndLongY => "CMP"
  | .decDir _ | .decAbs _ | .decDirX _ | .decAbsX _ | .decAcc => "DEC"
  | .bne _ => "BNE"
  | .cpxImm _ | .cpxDir _ | .cpxAbs _ => "CPX"
  | .sbcIndX _ | .sbcSr _ | .sbcDir _ | .sbcIndLong _ | .sbcImm _ | .sbcAbs _ | .sbcLong _ | .sbcIndY _ | .sbcInd _
  | .sbcDirX _ | .sbcAbsY _ | .sbcAbsX _ | .sbcLongX _ | .sbcSrIndY | .sbcIndLongY => "SBC"
  | .incDir _ | .incAbs _ | .incDirX _ | .incAbsX _ | .incAcc => "INC"
  | .beq _ => "BEQ"
  | .brk => "BRK"
  | .cop => "COP"
  | .tsbDir | .tsbAbs => "TSB"
  | .php => "PHP"
  | .phd => "PHD"
  | .trbDir | .trbAbs => "TRB"
  | .clc => "CLC"
  | .tcs => "TCS"
  | .jsl => "JSL"
  | .plp => "PLP"
  | .pld => "PLD"
  | .sec => "SEC"
  | .tsc => "TSC"
  | .rti => "RTI"
  | .wdm => "WDM"
  | .mvp => "MVP"
  | .pha => "PHA"
  | .phk => "PHK"
  | .mvn => "MVN"
  | .cli => "CLI"
  | .phy => "PHY"
  | .tcd => "TCD"
  | .rts => "RTS"
  | .per => "PER"
  | .pla => "PLA"
  | .rtl => "RTL"
  | .sei => "SEI"
  | .ply => "PLY"
  | .tdc => "TDC"
  | .brl => "BRL"
  | .dey => "DEY"
  | .txa => "TXA"
  | .phb => "PHB"
  | .tya => "TYA"
  | .txs => "TXS"
  | .txy => "TXY"
  | .tay => "TAY"
  | .tax => "TAX"
  | .plb => "PLB"
  | .clv => "CLV"
  | .tsx => "TSX"
  | .tyx => "TYX"
  | .rep => "REP"
  | .iny => "INY"
  | .dex => "DEX"
  | .wai => "WAI"
  | .pei => "PEI"
  | .cld => "CLD"
  | .phx => "PHX"
  | .stp => "STP"
  | .jml => "JML"
  | .sep => "SEP"
  | .inx => "INX"
  | .nop => "NOP"
  | .xba => "XBA"
  | .pea => "PEA"
  | .sed => "SED"
  | .plx => "PLX"
  | .xce => "XCE"

/-- Six hexadecimal digits of a 24-bit operand. -/
def hex6 (a : Addr) : String := hex2 (a.extractLsb' 16 8) ++ hex4 (a.extractLsb' 0 16)

/-- An immediate: two digits when one byte is fetched, four when two are (R101). -/
def immText (narrow : Bool) (v : Word16) : String := "#$" ++ (if narrow then hex2 (lo8 v) else hex4 v)

/-- A stack-relative operand, as many digits as its offset has bytes (R101, R106). -/
def srText (c : Ctx) (off : Word16) : String :=
  (match c.sr with
    | .oneByte => "$" ++ hex2 (lo8 off)
    | .twoBytes => "$" ++ hex4 off) ++ ",S"

/-- A branch label as the source writes it: `$+4` is the instruction's own address plus 4 (R115); the displacement counts
from the next instruction (R105). -/
def labelText (d : Byte) : String :=
  let n := d.toInt + 2
  if n < 0 then "$-" ++ Nat.repr (-n).toNat else "$+" ++ Nat.repr n.toNat

/-- Handles as `Op(a0, a1, a2)` writes them (R20). -/
def handlesText : List Handle → String
  | [] => ""
  | [h] => Nat.repr h.toNat
  | h :: rest => Nat.repr h.toNat ++ ", " ++ handlesText rest

/-- What stands after the name (R101, R115, R116, R20). The 38 unimplemented opcodes decode no operand (R113). -/
def operandText (c : Ctx) : Instr → String
  | .oraImm v | .andImm v | .eorImm v | .adcImm v | .bitImm v | .ldaImm v | .cmpImm v | .sbcImm v => immText c.m v
  | .ldxImm v | .ldyImm v | .cpxImm v | .cpyImm v => immText c.xf v
  | .oraDir d | .aslDir d | .bitDir d | .andDir d | .rolDir d | .eorDir d | .lsrDir d | .stzDir d | .adcDir d
  | .rorDir d | .styDir d | .staDir d | .stxDir d | .ldyDir d | .ldaDir d | .ldxDir d | .cpyDir d | .cmpDir d
  | .decDir d | .cpxDir d | .sbcDir d | .incDir d => "$" ++ hex2 d
  | .oraDirX d | .aslDirX d | .bitDirX d | .andDirX d | .rolDirX d | .eorDirX d | .lsrDirX d | .stzDirX d
  | .adcDirX d | .rorDirX d | .styDirX d | .staDirX d | .ldyDirX d | .ldaDirX d | .cmpDirX d | .decDirX d
  | .sbcDirX d | .incDirX d => "$" ++ hex2 d ++ ",X"
  | .stxDirY d | .ldxDirY d => "$" ++ hex2 d ++ ",Y"
  | .oraInd d | .andInd d | .eorInd d | .adcInd d | .staInd d | .ldaInd d | .cmpInd d | .sbcInd d =>
    "($" ++ hex2 d ++ ")"
  | .oraIndLong d | .andIndLong d | .eorIndLong d | .adcIndLong d | .staIndLong d | .ldaIndLong d | .cmpIndLong d
  | .sbcIndLong d => "[$" ++ hex2 d ++ "]"
  | .oraIndX d | .andIndX d | .eorIndX d | .adcIndX d | .staIndX d | .ldaIndX d | .cmpIndX d | .sbcIndX d =>
    "($" ++ hex2 d ++ ",X)"
  | .oraIndY d | .andIndY d | .eorIndY d | .adcIndY d | .staIndY d | .ldaIndY d | .cmpIndY d | .sbcIndY d =>
    "($" ++ hex2 d ++ "),Y"
  | .oraSr off | .andSr off | .eorSr off | .adcSr off | .staSr off | .ldaSr off | .cmpSr off | .sbcSr off =>
    srText c off
  | .oraAbs a | .aslAbs a | .jsrAbs a | .bitAbs a | .andAbs a | .rolAbs a | .jmpAbs a | .eorAbs a | .lsrAbs a
  | .adcAbs a | .rorAbs a | .styAbs a | .staAbs a | .stxAbs a | .stzAbs a | .ldyAbs a | .ldaAbs a | .ldxAbs a
  | .cpyAbs a | .cmpAbs a | .decAbs a | .cpxAbs a | .sbcAbs a | .incAbs a => "$" ++ hex4 a
  | .oraAbsX a | .aslAbsX a | .bitAbsX a | .andAbsX a | .rolAbsX a | .eorAbsX a | .lsrAbsX a | .adcAbsX a
  | .rorAbsX a | .staAbsX a | .stzAbsX a | .ldyAbsX a | .ldaAbsX a | .cmpAbsX a | .decAbsX a | .sbcAbsX a
  | .incAbsX a => "$" ++ hex4 a ++ ",X"
  | .oraAbsY a | .andAbsY a | .eorAbsY a | .adcAbsY a | .staAbsY a | .ldaAbsY a | .ldxAbsY a | .cmpAbsY a
  | .sbcAbsY a => "$" ++ hex4 a ++ ",Y"
  | .oraLong a | .andLong a | .eorLong a | .jmpLong a | .adcLong a | .staLong a | .ldaLong a | .cmpLong a
  | .sbcLong a => "$" ++ hex6 a
  | .oraLongX a | .andLongX a | .eorLongX a | .adcLongX a | .staLongX a | .ldaLongX a | .cmpLongX a | .sbcLongX a =>
    "$" ++ hex6 a ++ ",X"
  | .jmpAbsInd a => "($" ++ hex4 a ++ ")"
  | .bpl d | .bmi d | .bvc d | .bvs d | .bra d | .bcc d | .bcs d | .bne d | .beq d => labelText d
  | .aslAcc | .incAcc | .rolAcc | .decAcc | .lsrAcc | .rorAcc => "A"
  | .brk | .cop | .tsbDir | .php | .phd | .tsbAbs | .oraSrIndY | .trbDir | .oraIndLongY | .clc | .tcs | .trbAbs
  | .jsl | .plp | .pld | .andSrIndY | .andIndLongY | .sec | .tsc | .rti | .wdm | .mvp | .pha | .phk | .eorSrIndY
  | .mvn | .eorIndLongY | .cli | .phy | .tcd | .rts | .per | .pla | .rtl | .adcSrIndY | .adcIndLongY | .sei | .ply
  | .tdc | .jmpAbsIndX | .brl | .dey | .txa | .phb | .staSrIndY | .staIndLongY | .tya | .txs | .txy | .tay | .tax
  | .plb | .ldaSrIndY | .ldaIndLongY | .clv | .tsx | .tyx | .rep | .iny | .dex | .wai | .cmpSrIndY | .pei
  | .cmpIndLongY | .cld | .phx | .stp | .jml | .sep | .inx | .nop | .xba | .sbcSrIndY | .pea | .sbcIndLongY | .sed
  | .plx | .xce | .jsrAbsIndX => ""
  | .irConst w g v => "(" ++ Nat.repr w.toNat ++ ", " ++ Nat.repr g.toNat ++ ", " ++ Nat.repr v.toNat ++ ")"
  | .irConst48 v => "(" ++ Nat.repr v.toNat ++ ")"
  | .irNot a => "(" ++ handlesText [a] ++ ")"
  | .irAdd a b | .irSub a b | .irAnd a b | .irOr a b | .irXor a b | .irShiftLeft a b | .irShiftRight a b | .irCat a b
  | .irZext a b | .irEq a b | .irNeq a b | .irLoad8 a b | .irLoad16 a b | .irLoad32 a b | .irLoad64 a b
  | .irStateRead a b | .irAssert a b => "(" ++ handlesText [a, b] ++ ")"
  | .irExtract a b d | .irTernary a b d | .irMemState a b d | .irStore8 a b d | .irStore16 a b d | .irStore32 a b d
  | .irStore64 a b d | .irStateWrite a b d => "(" ++ handlesText [a, b, d] ++ ")"

/-- The text of an instruction: its name and, after one space, the operand if it has one; an IR op without the space. -/
def asmText (c : Ctx) (i : Instr) : String :=
  let operand := operandText c i
  match encode c i with
  | .node _ => nameText i ++ operand
  | .guest _ => nameText i ++ (if operand.isEmpty then "" else " ") ++ operand

end Sys2Proof.Machine
end

