-- ==== Sys2Proof/Tests/Slice0.lean ====
section
/-! SUPPORT. The model's own tests: the well-formedness smoke, every constructor's decoding from words written out of the opcode
map and the tag table, the spec's test vectors (95_test_vectors.md, named in each docstring) one step each, and a witness for
the hypotheses of each obligation. -/

namespace Sys2Proof.Tests

open Sys2Proof Sys2Proof.Machine

set_option Elab.async false

/-! ### Well-formedness: one ill-formed term a check -/

theorem test_wf_immM_refuses : Instr.wellFormed { m := true, xf := false, sr := .twoBytes } (.ldaImm 0x0100#16) = false := by
  decide +kernel

theorem test_wf_immX_refuses : Instr.wellFormed { m := false, xf := true, sr := .twoBytes } (.ldxImm 0x0100#16) = false := by
  decide +kernel

theorem test_wf_imm_accepts : Instr.wellFormed { m := false, xf := true, sr := .twoBytes } (.ldaImm 0x0100#16) = true := by
  decide +kernel

theorem test_wf_sr_refuses : Instr.wellFormed { m := true, xf := true, sr := .oneByte } (.ldaSr 0x0100#16) = false := by
  decide +kernel

theorem test_wf_sr_accepts : Instr.wellFormed { m := true, xf := true, sr := .twoBytes } (.ldaSr 0x0100#16) = true := by
  decide +kernel

/-- V-IR4. -/
theorem test_wf_const_refuses : Instr.wellFormed launchCtx (.irConst 12#8 0#8 1#32) = false := by
  decide +kernel

theorem test_wf_sentinel_refuses : Instr.wellFormed launchCtx (.irAdd 3#16 sentinel) = false := by
  decide +kernel

theorem test_wf_sentinel_third_refuses : Instr.wellFormed launchCtx (.irTernary 3#16 4#16 sentinel) = false := by
  decide +kernel


/-! ### Decoding: every row of the opcode map and of the tag table -/

/-- Row 0x00 to 0x0F of the opcode map (R112, R113), operand bytes in ascending order, low byte first (R100, R103). -/
theorem test_decode_row_0 :
    [decodeTableWord 8 0x00,
      decodeTableWord 16 0x5A01,
      decodeTableWord 8 0x02,
      decodeTableWord 24 0x123403,
      decodeTableWord 8 0x04,
      decodeTableWord 16 0x5A05,
      decodeTableWord 16 0x5A06,
      decodeTableWord 16 0x5A07,
      decodeTableWord 8 0x08,
      decodeTableWord 16 0x7F09,
      decodeTableWord 8 0x0A,
      decodeTableWord 8 0x0B,
      decodeTableWord 8 0x0C,
      decodeTableWord 24 0x12340D,
      decodeTableWord 24 0x12340E,
      decodeTableWord 32 0x1234560F] =
    [some .brk,
      some (.oraIndX 0x5A#8),
      some .cop,
      some (.oraSr 0x1234#16),
      some .tsbDir,
      some (.oraDir 0x5A#8),
      some (.aslDir 0x5A#8),
      some (.oraIndLong 0x5A#8),
      some .php,
      some (.oraImm 0x007F#16),
      some .aslAcc,
      some .phd,
      some .tsbAbs,
      some (.oraAbs 0x1234#16),
      some (.aslAbs 0x1234#16),
      some (.oraLong 0x123456#24)] := by
  decide +kernel

/-- Row 0x10 to 0x1F of the opcode map (R112, R113), operand bytes in ascending order, low byte first (R100, R103). -/
theorem test_decode_row_1 :
    [decodeTableWord 16 0x5A10,
      decodeTableWord 16 0x5A11,
      decodeTableWord 16 0x5A12,
      decodeTableWord 8 0x13,
      decodeTableWord 8 0x14,
      decodeTableWord 16 0x5A15,
      decodeTableWord 16 0x5A16,
      decodeTableWord 8 0x17,
      decodeTableWord 8 0x18,
      decodeTableWord 24 0x123419,
      decodeTableWord 8 0x1A,
      decodeTableWord 8 0x1B,
      decodeTableWord 8 0x1C,
      decodeTableWord 24 0x12341D,
      decodeTableWord 24 0x12341E,
      decodeTableWord 32 0x1234561F] =
    [some (.bpl 0x5A#8),
      some (.oraIndY 0x5A#8),
      some (.oraInd 0x5A#8),
      some .oraSrIndY,
      some .trbDir,
      some (.oraDirX 0x5A#8),
      some (.aslDirX 0x5A#8),
      some .oraIndLongY,
      some .clc,
      some (.oraAbsY 0x1234#16),
      some .incAcc,
      some .tcs,
      some .trbAbs,
      some (.oraAbsX 0x1234#16),
      some (.aslAbsX 0x1234#16),
      some (.oraLongX 0x123456#24)] := by
  decide +kernel

/-- Row 0x20 to 0x2F of the opcode map (R112, R113), operand bytes in ascending order, low byte first (R100, R103). -/
theorem test_decode_row_2 :
    [decodeTableWord 24 0x123420,
      decodeTableWord 16 0x5A21,
      decodeTableWord 8 0x22,
      decodeTableWord 24 0x123423,
      decodeTableWord 16 0x5A24,
      decodeTableWord 16 0x5A25,
      decodeTableWord 16 0x5A26,
      decodeTableWord 16 0x5A27,
      decodeTableWord 8 0x28,
      decodeTableWord 16 0x7F29,
      decodeTableWord 8 0x2A,
      decodeTableWord 8 0x2B,
      decodeTableWord 24 0x12342C,
      decodeTableWord 24 0x12342D,
      decodeTableWord 24 0x12342E,
      decodeTableWord 32 0x1234562F] =
    [some (.jsrAbs 0x1234#16),
      some (.andIndX 0x5A#8),
      some .jsl,
      some (.andSr 0x1234#16),
      some (.bitDir 0x5A#8),
      some (.andDir 0x5A#8),
      some (.rolDir 0x5A#8),
      some (.andIndLong 0x5A#8),
      some .plp,
      some (.andImm 0x007F#16),
      some .rolAcc,
      some .pld,
      some (.bitAbs 0x1234#16),
      some (.andAbs 0x1234#16),
      some (.rolAbs 0x1234#16),
      some (.andLong 0x123456#24)] := by
  decide +kernel

/-- Row 0x30 to 0x3F of the opcode map (R112, R113), operand bytes in ascending order, low byte first (R100, R103). -/
theorem test_decode_row_3 :
    [decodeTableWord 16 0x5A30,
      decodeTableWord 16 0x5A31,
      decodeTableWord 16 0x5A32,
      decodeTableWord 8 0x33,
      decodeTableWord 16 0x5A34,
      decodeTableWord 16 0x5A35,
      decodeTableWord 16 0x5A36,
      decodeTableWord 8 0x37,
      decodeTableWord 8 0x38,
      decodeTableWord 24 0x123439,
      decodeTableWord 8 0x3A,
      decodeTableWord 8 0x3B,
      decodeTableWord 24 0x12343C,
      decodeTableWord 24 0x12343D,
      decodeTableWord 24 0x12343E,
      decodeTableWord 32 0x1234563F] =
    [some (.bmi 0x5A#8),
      some (.andIndY 0x5A#8),
      some (.andInd 0x5A#8),
      some .andSrIndY,
      some (.bitDirX 0x5A#8),
      some (.andDirX 0x5A#8),
      some (.rolDirX 0x5A#8),
      some .andIndLongY,
      some .sec,
      some (.andAbsY 0x1234#16),
      some .decAcc,
      some .tsc,
      some (.bitAbsX 0x1234#16),
      some (.andAbsX 0x1234#16),
      some (.rolAbsX 0x1234#16),
      some (.andLongX 0x123456#24)] := by
  decide +kernel

/-- Row 0x40 to 0x4F of the opcode map (R112, R113), operand bytes in ascending order, low byte first (R100, R103). -/
theorem test_decode_row_4 :
    [decodeTableWord 8 0x40,
      decodeTableWord 16 0x5A41,
      decodeTableWord 8 0x42,
      decodeTableWord 24 0x123443,
      decodeTableWord 8 0x44,
      decodeTableWord 16 0x5A45,
      decodeTableWord 16 0x5A46,
      decodeTableWord 16 0x5A47,
      decodeTableWord 8 0x48,
      decodeTableWord 16 0x7F49,
      decodeTableWord 8 0x4A,
      decodeTableWord 8 0x4B,
      decodeTableWord 24 0x12344C,
      decodeTableWord 24 0x12344D,
      decodeTableWord 24 0x12344E,
      decodeTableWord 32 0x1234564F] =
    [some .rti,
      some (.eorIndX 0x5A#8),
      some .wdm,
      some (.eorSr 0x1234#16),
      some .mvp,
      some (.eorDir 0x5A#8),
      some (.lsrDir 0x5A#8),
      some (.eorIndLong 0x5A#8),
      some .pha,
      some (.eorImm 0x007F#16),
      some .lsrAcc,
      some .phk,
      some (.jmpAbs 0x1234#16),
      some (.eorAbs 0x1234#16),
      some (.lsrAbs 0x1234#16),
      some (.eorLong 0x123456#24)] := by
  decide +kernel

/-- Row 0x50 to 0x5F of the opcode map (R112, R113), operand bytes in ascending order, low byte first (R100, R103). -/
theorem test_decode_row_5 :
    [decodeTableWord 16 0x5A50,
      decodeTableWord 16 0x5A51,
      decodeTableWord 16 0x5A52,
      decodeTableWord 8 0x53,
      decodeTableWord 8 0x54,
      decodeTableWord 16 0x5A55,
      decodeTableWord 16 0x5A56,
      decodeTableWord 8 0x57,
      decodeTableWord 8 0x58,
      decodeTableWord 24 0x123459,
      decodeTableWord 8 0x5A,
      decodeTableWord 8 0x5B,
      decodeTableWord 32 0x1234565C,
      decodeTableWord 24 0x12345D,
      decodeTableWord 24 0x12345E,
      decodeTableWord 32 0x1234565F] =
    [some (.bvc 0x5A#8),
      some (.eorIndY 0x5A#8),
      some (.eorInd 0x5A#8),
      some .eorSrIndY,
      some .mvn,
      some (.eorDirX 0x5A#8),
      some (.lsrDirX 0x5A#8),
      some .eorIndLongY,
      some .cli,
      some (.eorAbsY 0x1234#16),
      some .phy,
      some .tcd,
      some (.jmpLong 0x123456#24),
      some (.eorAbsX 0x1234#16),
      some (.lsrAbsX 0x1234#16),
      some (.eorLongX 0x123456#24)] := by
  decide +kernel

/-- Row 0x60 to 0x6F of the opcode map (R112, R113), operand bytes in ascending order, low byte first (R100, R103). -/
theorem test_decode_row_6 :
    [decodeTableWord 8 0x60,
      decodeTableWord 16 0x5A61,
      decodeTableWord 8 0x62,
      decodeTableWord 24 0x123463,
      decodeTableWord 16 0x5A64,
      decodeTableWord 16 0x5A65,
      decodeTableWord 16 0x5A66,
      decodeTableWord 16 0x5A67,
      decodeTableWord 8 0x68,
      decodeTableWord 16 0x7F69,
      decodeTableWord 8 0x6A,
      decodeTableWord 8 0x6B,
      decodeTableWord 24 0x12346C,
      decodeTableWord 24 0x12346D,
      decodeTableWord 24 0x12346E,
      decodeTableWord 32 0x1234566F] =
    [some .rts,
      some (.adcIndX 0x5A#8),
      some .per,
      some (.adcSr 0x1234#16),
      some (.stzDir 0x5A#8),
      some (.adcDir 0x5A#8),
      some (.rorDir 0x5A#8),
      some (.adcIndLong 0x5A#8),
      some .pla,
      some (.adcImm 0x007F#16),
      some .rorAcc,
      some .rtl,
      some (.jmpAbsInd 0x1234#16),
      some (.adcAbs 0x1234#16),
      some (.rorAbs 0x1234#16),
      some (.adcLong 0x123456#24)] := by
  decide +kernel

/-- Row 0x70 to 0x7F of the opcode map (R112, R113), operand bytes in ascending order, low byte first (R100, R103). -/
theorem test_decode_row_7 :
    [decodeTableWord 16 0x5A70,
      decodeTableWord 16 0x5A71,
      decodeTableWord 16 0x5A72,
      decodeTableWord 8 0x73,
      decodeTableWord 16 0x5A74,
      decodeTableWord 16 0x5A75,
      decodeTableWord 16 0x5A76,
      decodeTableWord 8 0x77,
      decodeTableWord 8 0x78,
      decodeTableWord 24 0x123479,
      decodeTableWord 8 0x7A,
      decodeTableWord 8 0x7B,
      decodeTableWord 8 0x7C,
      decodeTableWord 24 0x12347D,
      decodeTableWord 24 0x12347E,
      decodeTableWord 32 0x1234567F] =
    [some (.bvs 0x5A#8),
      some (.adcIndY 0x5A#8),
      some (.adcInd 0x5A#8),
      some .adcSrIndY,
      some (.stzDirX 0x5A#8),
      some (.adcDirX 0x5A#8),
      some (.rorDirX 0x5A#8),
      some .adcIndLongY,
      some .sei,
      some (.adcAbsY 0x1234#16),
      some .ply,
      some .tdc,
      some .jmpAbsIndX,
      some (.adcAbsX 0x1234#16),
      some (.rorAbsX 0x1234#16),
      some (.adcLongX 0x123456#24)] := by
  decide +kernel

/-- Row 0x80 to 0x8F of the opcode map (R112, R113), operand bytes in ascending order, low byte first (R100, R103). -/
theorem test_decode_row_8 :
    [decodeTableWord 16 0x5A80,
      decodeTableWord 16 0x5A81,
      decodeTableWord 8 0x82,
      decodeTableWord 24 0x123483,
      decodeTableWord 16 0x5A84,
      decodeTableWord 16 0x5A85,
      decodeTableWord 16 0x5A86,
      decodeTableWord 16 0x5A87,
      decodeTableWord 8 0x88,
      decodeTableWord 16 0x7F89,
      decodeTableWord 8 0x8A,
      decodeTableWord 8 0x8B,
      decodeTableWord 24 0x12348C,
      decodeTableWord 24 0x12348D,
      decodeTableWord 24 0x12348E,
      decodeTableWord 32 0x1234568F] =
    [some (.bra 0x5A#8),
      some (.staIndX 0x5A#8),
      some .brl,
      some (.staSr 0x1234#16),
      some (.styDir 0x5A#8),
      some (.staDir 0x5A#8),
      some (.stxDir 0x5A#8),
      some (.staIndLong 0x5A#8),
      some .dey,
      some (.bitImm 0x007F#16),
      some .txa,
      some .phb,
      some (.styAbs 0x1234#16),
      some (.staAbs 0x1234#16),
      some (.stxAbs 0x1234#16),
      some (.staLong 0x123456#24)] := by
  decide +kernel

/-- Row 0x90 to 0x9F of the opcode map (R112, R113), operand bytes in ascending order, low byte first (R100, R103). -/
theorem test_decode_row_9 :
    [decodeTableWord 16 0x5A90,
      decodeTableWord 16 0x5A91,
      decodeTableWord 16 0x5A92,
      decodeTableWord 8 0x93,
      decodeTableWord 16 0x5A94,
      decodeTableWord 16 0x5A95,
      decodeTableWord 16 0x5A96,
      decodeTableWord 8 0x97,
      decodeTableWord 8 0x98,
      decodeTableWord 24 0x123499,
      decodeTableWord 8 0x9A,
      decodeTableWord 8 0x9B,
      decodeTableWord 24 0x12349C,
      decodeTableWord 24 0x12349D,
      decodeTableWord 24 0x12349E,
      decodeTableWord 32 0x1234569F] =
    [some (.bcc 0x5A#8),
      some (.staIndY 0x5A#8),
      some (.staInd 0x5A#8),
      some .staSrIndY,
      some (.styDirX 0x5A#8),
      some (.staDirX 0x5A#8),
      some (.stxDirY 0x5A#8),
      some .staIndLongY,
      some .tya,
      some (.staAbsY 0x1234#16),
      some .txs,
      some .txy,
      some (.stzAbs 0x1234#16),
      some (.staAbsX 0x1234#16),
      some (.stzAbsX 0x1234#16),
      some (.staLongX 0x123456#24)] := by
  decide +kernel

/-- Row 0xA0 to 0xAF of the opcode map (R112, R113), operand bytes in ascending order, low byte first (R100, R103). -/
theorem test_decode_row_A :
    [decodeTableWord 16 0x7FA0,
      decodeTableWord 16 0x5AA1,
      decodeTableWord 16 0x7FA2,
      decodeTableWord 24 0x1234A3,
      decodeTableWord 16 0x5AA4,
      decodeTableWord 16 0x5AA5,
      decodeTableWord 16 0x5AA6,
      decodeTableWord 16 0x5AA7,
      decodeTableWord 8 0xA8,
      decodeTableWord 16 0x7FA9,
      decodeTableWord 8 0xAA,
      decodeTableWord 8 0xAB,
      decodeTableWord 24 0x1234AC,
      decodeTableWord 24 0x1234AD,
      decodeTableWord 24 0x1234AE,
      decodeTableWord 32 0x123456AF] =
    [some (.ldyImm 0x007F#16),
      some (.ldaIndX 0x5A#8),
      some (.ldxImm 0x007F#16),
      some (.ldaSr 0x1234#16),
      some (.ldyDir 0x5A#8),
      some (.ldaDir 0x5A#8),
      some (.ldxDir 0x5A#8),
      some (.ldaIndLong 0x5A#8),
      some .tay,
      some (.ldaImm 0x007F#16),
      some .tax,
      some .plb,
      some (.ldyAbs 0x1234#16),
      some (.ldaAbs 0x1234#16),
      some (.ldxAbs 0x1234#16),
      some (.ldaLong 0x123456#24)] := by
  decide +kernel

/-- Row 0xB0 to 0xBF of the opcode map (R112, R113), operand bytes in ascending order, low byte first (R100, R103). -/
theorem test_decode_row_B :
    [decodeTableWord 16 0x5AB0,
      decodeTableWord 16 0x5AB1,
      decodeTableWord 16 0x5AB2,
      decodeTableWord 8 0xB3,
      decodeTableWord 16 0x5AB4,
      decodeTableWord 16 0x5AB5,
      decodeTableWord 16 0x5AB6,
      decodeTableWord 8 0xB7,
      decodeTableWord 8 0xB8,
      decodeTableWord 24 0x1234B9,
      decodeTableWord 8 0xBA,
      decodeTableWord 8 0xBB,
      decodeTableWord 24 0x1234BC,
      decodeTableWord 24 0x1234BD,
      decodeTableWord 24 0x1234BE,
      decodeTableWord 32 0x123456BF] =
    [some (.bcs 0x5A#8),
      some (.ldaIndY 0x5A#8),
      some (.ldaInd 0x5A#8),
      some .ldaSrIndY,
      some (.ldyDirX 0x5A#8),
      some (.ldaDirX 0x5A#8),
      some (.ldxDirY 0x5A#8),
      some .ldaIndLongY,
      some .clv,
      some (.ldaAbsY 0x1234#16),
      some .tsx,
      some .tyx,
      some (.ldyAbsX 0x1234#16),
      some (.ldaAbsX 0x1234#16),
      some (.ldxAbsY 0x1234#16),
      some (.ldaLongX 0x123456#24)] := by
  decide +kernel

/-- Row 0xC0 to 0xCF of the opcode map (R112, R113), operand bytes in ascending order, low byte first (R100, R103). -/
theorem test_decode_row_C :
    [decodeTableWord 16 0x7FC0,
      decodeTableWord 16 0x5AC1,
      decodeTableWord 8 0xC2,
      decodeTableWord 24 0x1234C3,
      decodeTableWord 16 0x5AC4,
      decodeTableWord 16 0x5AC5,
      decodeTableWord 16 0x5AC6,
      decodeTableWord 16 0x5AC7,
      decodeTableWord 8 0xC8,
      decodeTableWord 16 0x7FC9,
      decodeTableWord 8 0xCA,
      decodeTableWord 8 0xCB,
      decodeTableWord 24 0x1234CC,
      decodeTableWord 24 0x1234CD,
      decodeTableWord 24 0x1234CE,
      decodeTableWord 32 0x123456CF] =
    [some (.cpyImm 0x007F#16),
      some (.cmpIndX 0x5A#8),
      some .rep,
      some (.cmpSr 0x1234#16),
      some (.cpyDir 0x5A#8),
      some (.cmpDir 0x5A#8),
      some (.decDir 0x5A#8),
      some (.cmpIndLong 0x5A#8),
      some .iny,
      some (.cmpImm 0x007F#16),
      some .dex,
      some .wai,
      some (.cpyAbs 0x1234#16),
      some (.cmpAbs 0x1234#16),
      some (.decAbs 0x1234#16),
      some (.cmpLong 0x123456#24)] := by
  decide +kernel

/-- Row 0xD0 to 0xDF of the opcode map (R112, R113), operand bytes in ascending order, low byte first (R100, R103). -/
theorem test_decode_row_D :
    [decodeTableWord 16 0x5AD0,
      decodeTableWord 16 0x5AD1,
      decodeTableWord 16 0x5AD2,
      decodeTableWord 8 0xD3,
      decodeTableWord 8 0xD4,
      decodeTableWord 16 0x5AD5,
      decodeTableWord 16 0x5AD6,
      decodeTableWord 8 0xD7,
      decodeTableWord 8 0xD8,
      decodeTableWord 24 0x1234D9,
      decodeTableWord 8 0xDA,
      decodeTableWord 8 0xDB,
      decodeTableWord 8 0xDC,
      decodeTableWord 24 0x1234DD,
      decodeTableWord 24 0x1234DE,
      decodeTableWord 32 0x123456DF] =
    [some (.bne 0x5A#8),
      some (.cmpIndY 0x5A#8),
      some (.cmpInd 0x5A#8),
      some .cmpSrIndY,
      some .pei,
      some (.cmpDirX 0x5A#8),
      some (.decDirX 0x5A#8),
      some .cmpIndLongY,
      some .cld,
      some (.cmpAbsY 0x1234#16),
      some .phx,
      some .stp,
      some .jml,
      some (.cmpAbsX 0x1234#16),
      some (.decAbsX 0x1234#16),
      some (.cmpLongX 0x123456#24)] := by
  decide +kernel

/-- Row 0xE0 to 0xEF of the opcode map (R112, R113), operand bytes in ascending order, low byte first (R100, R103). -/
theorem test_decode_row_E :
    [decodeTableWord 16 0x7FE0,
      decodeTableWord 16 0x5AE1,
      decodeTableWord 8 0xE2,
      decodeTableWord 24 0x1234E3,
      decodeTableWord 16 0x5AE4,
      decodeTableWord 16 0x5AE5,
      decodeTableWord 16 0x5AE6,
      decodeTableWord 16 0x5AE7,
      decodeTableWord 8 0xE8,
      decodeTableWord 16 0x7FE9,
      decodeTableWord 8 0xEA,
      decodeTableWord 8 0xEB,
      decodeTableWord 24 0x1234EC,
      decodeTableWord 24 0x1234ED,
      decodeTableWord 24 0x1234EE,
      decodeTableWord 32 0x123456EF] =
    [some (.cpxImm 0x007F#16),
      some (.sbcIndX 0x5A#8),
      some .sep,
      some (.sbcSr 0x1234#16),
      some (.cpxDir 0x5A#8),
      some (.sbcDir 0x5A#8),
      some (.incDir 0x5A#8),
      some (.sbcIndLong 0x5A#8),
      some .inx,
      some (.sbcImm 0x007F#16),
      some .nop,
      some .xba,
      some (.cpxAbs 0x1234#16),
      some (.sbcAbs 0x1234#16),
      some (.incAbs 0x1234#16),
      some (.sbcLong 0x123456#24)] := by
  decide +kernel

/-- Row 0xF0 to 0xFF of the opcode map (R112, R113), operand bytes in ascending order, low byte first (R100, R103). -/
theorem test_decode_row_F :
    [decodeTableWord 16 0x5AF0,
      decodeTableWord 16 0x5AF1,
      decodeTableWord 16 0x5AF2,
      decodeTableWord 8 0xF3,
      decodeTableWord 8 0xF4,
      decodeTableWord 16 0x5AF5,
      decodeTableWord 16 0x5AF6,
      decodeTableWord 8 0xF7,
      decodeTableWord 8 0xF8,
      decodeTableWord 24 0x1234F9,
      decodeTableWord 8 0xFA,
      decodeTableWord 8 0xFB,
      decodeTableWord 8 0xFC,
      decodeTableWord 24 0x1234FD,
      decodeTableWord 24 0x1234FE,
      decodeTableWord 32 0x123456FF] =
    [some (.beq 0x5A#8),
      some (.sbcIndY 0x5A#8),
      some (.sbcInd 0x5A#8),
      some .sbcSrIndY,
      some .pea,
      some (.sbcDirX 0x5A#8),
      some (.incDirX 0x5A#8),
      some .sbcIndLongY,
      some .sed,
      some (.sbcAbsY 0x1234#16),
      some .plx,
      some .xce,
      some .jsrAbsIndX,
      some (.sbcAbsX 0x1234#16),
      some (.incAbsX 0x1234#16),
      some (.sbcLongX 0x123456#24)] := by
  decide +kernel

/-- Tags 0 to 13 (R120 to R123): tag in bits 15:0, arguments in 31:16, 47:32 and 63:48, unused slots 0xFFFF. -/
theorem test_decode_tags_0 :
    [decodeTableWord 64 0x00000142_01_08_0000,
      decodeTableWord 64 0x123456789ABC_0001,
      decodeTableWord 64 0xFFFF_FFFF_0003_0002,
      decodeTableWord 64 0xFFFF_0004_0003_0003,
      decodeTableWord 64 0xFFFF_0004_0003_0004,
      decodeTableWord 64 0xFFFF_0004_0003_0005,
      decodeTableWord 64 0xFFFF_0004_0003_0006,
      decodeTableWord 64 0xFFFF_0004_0003_0007,
      decodeTableWord 64 0xFFFF_0004_0003_0008,
      decodeTableWord 64 0xFFFF_0004_0003_0009,
      decodeTableWord 64 0xFFFF_0004_0003_000A,
      decodeTableWord 64 0x0005_0004_0003_000B,
      decodeTableWord 64 0xFFFF_0004_0003_000C,
      decodeTableWord 64 0xFFFF_0004_0003_000D] =
    [some (.irConst 0x08#8 0x01#8 0x00000142#32),
      some (.irConst48 0x123456789ABC#48),
      some (.irNot 3#16),
      some (.irAdd 3#16 4#16),
      some (.irSub 3#16 4#16),
      some (.irAnd 3#16 4#16),
      some (.irOr 3#16 4#16),
      some (.irXor 3#16 4#16),
      some (.irShiftLeft 3#16 4#16),
      some (.irShiftRight 3#16 4#16),
      some (.irCat 3#16 4#16),
      some (.irExtract 3#16 4#16 5#16),
      some (.irZext 3#16 4#16),
      some (.irEq 3#16 4#16)] := by
  decide +kernel

/-- Tags 14 to 27 (R120 to R123): tag in bits 15:0, arguments in 31:16, 47:32 and 63:48, unused slots 0xFFFF. -/
theorem test_decode_tags_14 :
    [decodeTableWord 64 0xFFFF_0004_0003_000E,
      decodeTableWord 64 0x0005_0004_0003_000F,
      decodeTableWord 64 0x0005_0004_0003_0010,
      decodeTableWord 64 0xFFFF_0004_0003_0011,
      decodeTableWord 64 0xFFFF_0004_0003_0012,
      decodeTableWord 64 0xFFFF_0004_0003_0013,
      decodeTableWord 64 0xFFFF_0004_0003_0014,
      decodeTableWord 64 0x0005_0004_0003_0015,
      decodeTableWord 64 0x0005_0004_0003_0016,
      decodeTableWord 64 0x0005_0004_0003_0017,
      decodeTableWord 64 0x0005_0004_0003_0018,
      decodeTableWord 64 0xFFFF_0004_0003_0019,
      decodeTableWord 64 0x0005_0004_0003_001A,
      decodeTableWord 64 0xFFFF_0004_0003_001B] =
    [some (.irNeq 3#16 4#16),
      some (.irTernary 3#16 4#16 5#16),
      some (.irMemState 3#16 4#16 5#16),
      some (.irLoad8 3#16 4#16),
      some (.irLoad16 3#16 4#16),
      some (.irLoad32 3#16 4#16),
      some (.irLoad64 3#16 4#16),
      some (.irStore8 3#16 4#16 5#16),
      some (.irStore16 3#16 4#16 5#16),
      some (.irStore32 3#16 4#16 5#16),
      some (.irStore64 3#16 4#16 5#16),
      some (.irStateRead 3#16 4#16),
      some (.irStateWrite 3#16 4#16 5#16),
      some (.irAssert 3#16 4#16)] := by
  decide +kernel

/-- Immediates and the stack-relative offset take the bytes M, X_flag and P_SR_OFFSET_BYTES select (R101, R102, R106). -/
theorem test_decode_widths :
    [decode { m := false, xf := true, sr := .twoBytes } (.guest [0x69#8, 0x34#8, 0x12#8]),
      decode { m := true, xf := false, sr := .twoBytes } (.guest [0xE0#8, 0x34#8, 0x12#8]),
      decode { m := true, xf := true, sr := .oneByte } (.guest [0x83#8, 0x34#8])].map Except.toOption =
    [some (.adcImm 0x1234#16), some (.cpxImm 0x1234#16), some (.staSr 0x0034#16)] := by
  decide +kernel

/-- Bytes of another length than the opcode's are no instruction; a tag of 28 is none (R107, R123, V-IR28). -/
theorem test_decode_rejects :
    [decode launchCtx (.guest []), decode launchCtx (.guest [0xA9#8]), decode launchCtx (.guest [0xEA#8, 0x00#8]),
      decode launchCtx (.node 0xFFFF_FFFF_FFFF_001C#64)].map Except.toOption = [none, none, none, none] := by
  decide +kernel

/-! ### One step of a guest instruction -/

/-- A machine in state `r`, the given bytes in memory, the code at `{PBR, PC}`. -/
def codeState (r : Regs) (mem : List (Nat × Byte)) (code : List Byte) : State :=
  placeBytes code { State.reset with r := r, mem := mem.foldl (fun m p => Memory.write m p.1 p.2) [] }

/-- The same with P_SR_OFFSET_BYTES = 1. -/
def withOneByteOffset (s : State) : State := { s with cfg := { s.cfg with srOffset := .oneByte } }

/-- Does a step leave these registers, these bytes, and this `ending`? -/
def leaves (s : State) (r : Regs) (bytes : List (Nat × Byte)) (ending : Bool) : Bool :=
  match step s with
  | .next t => t.r == r && bytes.all (fun p => Memory.read t.mem p.1 == p.2) && t.ending == ending
  | .fault _ => false
  | .refused _ => false

/-- V-A1. -/
theorem test_oraImm : leaves (codeState { Regs.reference with a := 0x0F#8 } [] [0x09#8, 0xF0#8])
    { Regs.reference with a := 0xFF#8, n := true, pc := 0xC002#16, cycle := 2#64 } [] false = true := by
  decide +kernel

/-- V-A4. -/
theorem test_oraImm_keepsB : leaves (codeState { Regs.reference with b := 0x77#8, a := 0x01#8 } [] [0x09#8, 0x80#8])
    { Regs.reference with b := 0x77#8, a := 0x81#8, n := true, pc := 0xC002#16, cycle := 2#64 } [] false = true := by
  decide +kernel

/-- V-A2. -/
theorem test_andImm_16 : leaves (codeState { Regs.reference with e := false, m := false, b := 0x12#8, a := 0x34#8 } [] [0x29#8, 0xFF#8, 0x00#8])
    { Regs.reference with e := false, m := false, b := 0x00#8, a := 0x34#8, pc := 0xC003#16, cycle := 3#64 } [] false = true := by
  decide +kernel

/-- V-A3. -/
theorem test_eorImm : leaves (codeState { Regs.reference with a := 0xFF#8 } [] [0x49#8, 0xFF#8])
    { Regs.reference with a := 0x00#8, z := true, pc := 0xC002#16, cycle := 2#64 } [] false = true := by
  decide +kernel

/-- S3, V-A5. -/
theorem test_adcImm_overflow : leaves (codeState { Regs.reference with a := 0x7F#8 } [] [0x69#8, 0x01#8])
    { Regs.reference with a := 0x80#8, n := true, v := true, pc := 0xC002#16, cycle := 2#64 } [] false = true := by
  decide +kernel

/-- V-A9. -/
theorem test_adcImm_16 : leaves (codeState { Regs.reference with e := false, m := false, b := 0xFF#8, a := 0xFF#8, c := true } [] [0x69#8, 0x00#8, 0x00#8])
    { Regs.reference with e := false, m := false, b := 0x00#8, a := 0x00#8, c := true, z := true, pc := 0xC003#16, cycle := 3#64 } [] false = true := by
  decide +kernel

/-- V-A11. -/
theorem test_sbcImm_overflow : leaves (codeState { Regs.reference with a := 0x50#8, c := true } [] [0xE9#8, 0xB0#8])
    { Regs.reference with a := 0xA0#8, c := false, n := true, v := true, pc := 0xC002#16, cycle := 2#64 } [] false = true := by
  decide +kernel

/-- V-A13. -/
theorem test_sbcImm_16 : leaves (codeState { Regs.reference with e := false, m := false, c := true } [] [0xE9#8, 0x01#8, 0x00#8])
    { Regs.reference with e := false, m := false, c := false, b := 0xFF#8, a := 0xFF#8, n := true, pc := 0xC003#16, cycle := 3#64 } [] false = true := by
  decide +kernel

/-- V-A15. -/
theorem test_cmpImm_16 : leaves (codeState { Regs.reference with e := false, m := false, b := 0x01#8 } [] [0xC9#8, 0x00#8, 0x02#8])
    { Regs.reference with e := false, m := false, b := 0x01#8, n := true, z := false, c := false, pc := 0xC003#16, cycle := 3#64 } [] false = true := by
  decide +kernel

/-- V-A16. -/
theorem test_cmpImm_keepsV : leaves (codeState { Regs.reference with e := false, m := false, b := 0x80#8, v := true } [] [0xC9#8, 0x00#8, 0x80#8])
    { Regs.reference with e := false, m := false, b := 0x80#8, v := true, z := true, c := true, n := false, pc := 0xC003#16, cycle := 3#64 } [] false = true := by
  decide +kernel

/-- S1, C2. -/
theorem test_ldaImm : leaves (codeState Regs.reference [] [0xA9#8, 0x42#8])
    { Regs.reference with a := 0x42#8, pc := 0xC002#16, cycle := 2#64 } [] false = true := by
  decide +kernel

/-- V-A18. -/
theorem test_ldaImm_keepsB : leaves (codeState { Regs.reference with b := 0x12#8 } [] [0xA9#8, 0x00#8])
    { Regs.reference with b := 0x12#8, z := true, pc := 0xC002#16, cycle := 2#64 } [] false = true := by
  decide +kernel

/-- V-A20. -/
theorem test_staDir_16 : leaves (codeState { Regs.reference with e := false, m := false, b := 0xBE#8, a := 0xEF#8 } [] [0x85#8, 0x10#8])
    { Regs.reference with e := false, m := false, b := 0xBE#8, a := 0xEF#8, pc := 0xC002#16, cycle := 4#64 } [(0x000010, 0xEF#8), (0x000011, 0xBE#8)] false = true := by
  decide +kernel

/-- V-A22. -/
theorem test_staLong : leaves (codeState { Regs.reference with a := 0x42#8, dbr := 0x7E#8 } [] [0x8F#8, 0x00#8, 0x10#8, 0x7E#8])
    { Regs.reference with a := 0x42#8, dbr := 0x7E#8, pc := 0xC004#16, cycle := 5#64 } [(0x7E1000, 0x42#8)] false = true := by
  decide +kernel

/-- V-AM1. -/
theorem test_ldaAbs : leaves (codeState { Regs.reference with dbr := 0x7E#8 } [(0x7E1234, 0x55#8)] [0xAD#8, 0x34#8, 0x12#8])
    { Regs.reference with dbr := 0x7E#8, a := 0x55#8, pc := 0xC003#16, cycle := 4#64 } [] false = true := by
  decide +kernel

/-- V-AM2. -/
theorem test_ldaLong : leaves (codeState Regs.reference [(0x123456, 0x01#8)] [0xAF#8, 0x56#8, 0x34#8, 0x12#8])
    { Regs.reference with a := 0x01#8, pc := 0xC004#16, cycle := 5#64 } [] false = true := by
  decide +kernel

/-- V-AM3. -/
theorem test_ldaAbsX_cross : leaves (codeState { Regs.reference with x := 0x0010#16 } [(0x001108, 0x34#8)] [0xBD#8, 0xF8#8, 0x10#8])
    { Regs.reference with x := 0x0010#16, a := 0x34#8, pc := 0xC003#16, cycle := 5#64 } [] false = true := by
  decide +kernel

/-- V-AM5. -/
theorem test_ldaAbsX_wideIndex : leaves (codeState { Regs.reference with e := false, xf := false, x := 0x0001#16 } [] [0xBD#8, 0x10#8, 0x10#8])
    { Regs.reference with e := false, xf := false, x := 0x0001#16, z := true, pc := 0xC003#16, cycle := 5#64 } [] false = true := by
  decide +kernel

/-- V-AM6. -/
theorem test_staAbsX_bankCarry : leaves (codeState { Regs.reference with dbr := 0x12#8, x := 0x0001#16, a := 0x99#8 } [] [0x9D#8, 0xFF#8, 0xFF#8])
    { Regs.reference with dbr := 0x12#8, x := 0x0001#16, a := 0x99#8, pc := 0xC003#16, cycle := 5#64 } [(0x130000, 0x99#8)] false = true := by
  decide +kernel

/-- V-AM7. -/
theorem test_ldaLongX : leaves (codeState { Regs.reference with x := 0x0010#16 } [(0x130008, 0x21#8)] [0xBF#8, 0xF8#8, 0xFF#8, 0x12#8])
    { Regs.reference with x := 0x0010#16, a := 0x21#8, pc := 0xC004#16, cycle := 5#64 } [] false = true := by
  decide +kernel

/-- S2, V-AM8. -/
theorem test_ldaDir : leaves (codeState Regs.reference [(0x000010, 0x80#8)] [0xA5#8, 0x10#8])
    { Regs.reference with a := 0x80#8, n := true, pc := 0xC002#16, cycle := 3#64 } [] false = true := by
  decide +kernel

/-- V-AM9. -/
theorem test_ldaDir_penalty : leaves (codeState { Regs.reference with d := 0x0101#16 } [(0x000111, 0x22#8)] [0xA5#8, 0x10#8])
    { Regs.reference with d := 0x0101#16, a := 0x22#8, pc := 0xC002#16, cycle := 4#64 } [] false = true := by
  decide +kernel

/-- V-AM10. -/
theorem test_ldaDirX_pageWrap : leaves (codeState { Regs.reference with x := 0x0020#16 } [(0x000010, 0x33#8)] [0xB5#8, 0xF0#8])
    { Regs.reference with x := 0x0020#16, a := 0x33#8, pc := 0xC002#16, cycle := 4#64 } [] false = true := by
  decide +kernel

/-- V-AM11. -/
theorem test_ldaDirX_native : leaves (codeState { Regs.reference with e := false, x := 0x0020#16 } [(0x000110, 0x44#8)] [0xB5#8, 0xF0#8])
    { Regs.reference with e := false, x := 0x0020#16, a := 0x44#8, pc := 0xC002#16, cycle := 4#64 } [] false = true := by
  decide +kernel

/-- V-AM12, V-X13. -/
theorem test_ldxDirY : leaves (codeState { Regs.reference with y := 0x0020#16 } [(0x000010, 0x9A#8)] [0xB6#8, 0xF0#8])
    { Regs.reference with y := 0x0020#16, x := 0x009A#16, n := true, pc := 0xC002#16, cycle := 4#64 } [] false = true := by
  decide +kernel

/-- V-AM13. -/
theorem test_ldaInd : leaves (codeState { Regs.reference with dbr := 0x7E#8 } [(0x000021, 0x30#8), (0x7E3000, 0x11#8)] [0xB2#8, 0x20#8])
    { Regs.reference with dbr := 0x7E#8, a := 0x11#8, pc := 0xC002#16, cycle := 5#64 } [] false = true := by
  decide +kernel

/-- V-AM14. -/
theorem test_ldaInd_pageWrap : leaves (codeState Regs.reference [(0x000000, 0x20#8), (0x002000, 0x5A#8)] [0xB2#8, 0xFF#8])
    { Regs.reference with a := 0x5A#8, pc := 0xC002#16, cycle := 5#64 } [] false = true := by
  decide +kernel

/-- V-AM15. -/
theorem test_ldaIndLong : leaves (codeState Regs.reference [(0x000011, 0x20#8), (0x000012, 0x7E#8), (0x7E2000, 0x99#8)] [0xA7#8, 0x10#8])
    { Regs.reference with a := 0x99#8, n := true, pc := 0xC002#16, cycle := 6#64 } [] false = true := by
  decide +kernel

/-- V-AM16. -/
theorem test_ldaIndX_pageWrap : leaves (codeState { Regs.reference with x := 0x0001#16 } [(0x000000, 0x12#8), (0x0000FF, 0x34#8), (0x001234, 0x66#8)] [0xA1#8, 0xFE#8])
    { Regs.reference with x := 0x0001#16, a := 0x66#8, pc := 0xC002#16, cycle := 6#64 } [] false = true := by
  decide +kernel

/-- V-AM17. -/
theorem test_ldaIndY : leaves (codeState { Regs.reference with y := 0x0005#16 } [(0x000021, 0x30#8), (0x003005, 0x77#8)] [0xB1#8, 0x20#8])
    { Regs.reference with y := 0x0005#16, a := 0x77#8, pc := 0xC002#16, cycle := 5#64 } [] false = true := by
  decide +kernel

/-- V-AM18. -/
theorem test_ldaIndY_cross : leaves (codeState { Regs.reference with y := 0x0005#16 } [(0x000020, 0xFE#8), (0x000021, 0x30#8), (0x003103, 0x12#8)] [0xB1#8, 0x20#8])
    { Regs.reference with y := 0x0005#16, a := 0x12#8, pc := 0xC002#16, cycle := 6#64 } [] false = true := by
  decide +kernel

/-- V-AM19. -/
theorem test_staIndY : leaves (codeState { Regs.reference with y := 0x0005#16, a := 0x55#8 } [(0x000021, 0x30#8)] [0x91#8, 0x20#8])
    { Regs.reference with y := 0x0005#16, a := 0x55#8, pc := 0xC002#16, cycle := 6#64 } [(0x003005, 0x55#8)] false = true := by
  decide +kernel

/-- V-AM22. -/
theorem test_ldaSr : leaves (codeState { Regs.reference with s := 0x01F0#16 } [(0x0001F3, 0x42#8)] [0xA3#8, 0x03#8, 0x00#8])
    { Regs.reference with s := 0x01F0#16, a := 0x42#8, pc := 0xC003#16, cycle := 5#64 } [] false = true := by
  decide +kernel

/-- V-AM23. -/
theorem test_ldaSr_oneByte : leaves (withOneByteOffset (codeState { Regs.reference with s := 0x01F0#16 } [(0x0001F3, 0x42#8)] [0xA3#8, 0x03#8]))
    { Regs.reference with s := 0x01F0#16, a := 0x42#8, pc := 0xC002#16, cycle := 4#64 } [] false = true := by
  decide +kernel

/-- V-AM24. -/
theorem test_ldaDir_bank0Wrap : leaves (codeState { Regs.reference with e := false, m := false, d := 0xFF00#16 } [(0x000000, 0x12#8), (0x00FFFF, 0x34#8)] [0xA5#8, 0xFF#8])
    { Regs.reference with e := false, m := false, d := 0xFF00#16, b := 0x12#8, a := 0x34#8, pc := 0xC002#16, cycle := 4#64 } [] false = true := by
  decide +kernel

/-- V-AM25. -/
theorem test_ldaAbs_bankCarry : leaves (codeState { Regs.reference with e := false, m := false, dbr := 0x12#8 } [(0x12FFFF, 0x34#8), (0x130000, 0x12#8)] [0xAD#8, 0xFF#8, 0xFF#8])
    { Regs.reference with e := false, m := false, dbr := 0x12#8, b := 0x12#8, a := 0x34#8, pc := 0xC003#16, cycle := 5#64 } [] false = true := by
  decide +kernel

/-- V-R1. -/
theorem test_aslAcc : leaves (codeState { Regs.reference with a := 0x81#8 } [] [0x0A#8])
    { Regs.reference with a := 0x02#8, c := true, pc := 0xC001#16, cycle := 2#64 } [] false = true := by
  decide +kernel

/-- V-R3. -/
theorem test_aslDir : leaves (codeState Regs.reference [(0x000010, 0x80#8)] [0x06#8, 0x10#8])
    { Regs.reference with c := true, z := true, pc := 0xC002#16, cycle := 5#64 } [(0x000010, 0x00#8)] false = true := by
  decide +kernel

/-- V-R4. -/
theorem test_rolAcc : leaves (codeState { Regs.reference with a := 0x80#8, c := true } [] [0x2A#8])
    { Regs.reference with a := 0x01#8, c := true, pc := 0xC001#16, cycle := 2#64 } [] false = true := by
  decide +kernel

/-- V-R5. -/
theorem test_lsrDir : leaves (codeState Regs.reference [(0x000010, 0x01#8)] [0x46#8, 0x10#8])
    { Regs.reference with c := true, z := true, pc := 0xC002#16, cycle := 5#64 } [(0x000010, 0x00#8)] false = true := by
  decide +kernel

/-- V-R6. -/
theorem test_lsrAcc_16 : leaves (codeState { Regs.reference with e := false, m := false, b := 0x80#8, a := 0x01#8 } [] [0x4A#8])
    { Regs.reference with e := false, m := false, b := 0x40#8, a := 0x00#8, c := true, pc := 0xC001#16, cycle := 2#64 } [] false = true := by
  decide +kernel

/-- V-R7. -/
theorem test_rorAcc_16 : leaves (codeState { Regs.reference with e := false, m := false, a := 0x01#8, c := true } [] [0x6A#8])
    { Regs.reference with e := false, m := false, a := 0x00#8, c := true, b := 0x80#8, n := true, pc := 0xC001#16, cycle := 2#64 } [] false = true := by
  decide +kernel

/-- V-R8. -/
theorem test_rorAcc : leaves (codeState { Regs.reference with a := 0x01#8 } [] [0x6A#8])
    { Regs.reference with a := 0x00#8, c := true, z := true, pc := 0xC001#16, cycle := 2#64 } [] false = true := by
  decide +kernel

/-- V-R9, W1. -/
theorem test_incAcc : leaves (codeState { Regs.reference with a := 0xFF#8, c := true } [] [0x1A#8])
    { Regs.reference with a := 0x00#8, c := true, z := true, pc := 0xC001#16, cycle := 2#64 } [] false = true := by
  decide +kernel

/-- V-R10. -/
theorem test_incAbs_16 : leaves (codeState { Regs.reference with e := false, m := false } [(0x001234, 0xFF#8), (0x001235, 0xFF#8)] [0xEE#8, 0x34#8, 0x12#8])
    { Regs.reference with e := false, m := false, z := true, pc := 0xC003#16, cycle := 8#64 } [(0x001234, 0x00#8), (0x001235, 0x00#8)] false = true := by
  decide +kernel

/-- V-R13. -/
theorem test_incDirX_pageWrap : leaves (codeState { Regs.reference with x := 0x0020#16 } [(0x000010, 0x7F#8)] [0xF6#8, 0xF0#8])
    { Regs.reference with x := 0x0020#16, n := true, pc := 0xC002#16, cycle := 6#64 } [(0x000010, 0x80#8)] false = true := by
  decide +kernel

/-- V-R11, W1. -/
theorem test_decAcc : leaves (codeState Regs.reference [] [0x3A#8])
    { Regs.reference with a := 0xFF#8, n := true, pc := 0xC001#16, cycle := 2#64 } [] false = true := by
  decide +kernel

/-- V-R12. -/
theorem test_decAbsX : leaves (codeState { Regs.reference with x := 0x0001#16 } [(0x001001, 0x01#8)] [0xDE#8, 0x00#8, 0x10#8])
    { Regs.reference with x := 0x0001#16, z := true, pc := 0xC003#16, cycle := 7#64 } [(0x001001, 0x00#8)] false = true := by
  decide +kernel

/-- V-R14. -/
theorem test_bitDir : leaves (codeState { Regs.reference with a := 0x01#8 } [(0x000010, 0xC0#8)] [0x24#8, 0x10#8])
    { Regs.reference with a := 0x01#8, z := true, n := true, v := true, pc := 0xC002#16, cycle := 3#64 } [] false = true := by
  decide +kernel

/-- V-R16. -/
theorem test_bitDir_16 : leaves (codeState { Regs.reference with e := false, m := false, a := 0x01#8 } [(0x000011, 0x40#8)] [0x24#8, 0x10#8])
    { Regs.reference with e := false, m := false, a := 0x01#8, z := true, v := true, pc := 0xC002#16, cycle := 4#64 } [] false = true := by
  decide +kernel

/-- V-R15. -/
theorem test_bitImm : leaves (codeState { Regs.reference with a := 0x01#8 } [] [0x89#8, 0xC0#8])
    { Regs.reference with a := 0x01#8, z := true, pc := 0xC002#16, cycle := 2#64 } [] false = true := by
  decide +kernel

/-- V-R17. -/
theorem test_stzDir : leaves (codeState Regs.reference [(0x000010, 0x55#8), (0x000011, 0x66#8)] [0x64#8, 0x10#8])
    { Regs.reference with pc := 0xC002#16, cycle := 3#64 } [(0x000010, 0x00#8), (0x000011, 0x66#8)] false = true := by
  decide +kernel

/-- V-R18. -/
theorem test_stzAbs_16 : leaves (codeState { Regs.reference with e := false, m := false, dbr := 0x7E#8 } [(0x7E2000, 0x01#8), (0x7E2001, 0x02#8)] [0x9C#8, 0x00#8, 0x20#8])
    { Regs.reference with e := false, m := false, dbr := 0x7E#8, pc := 0xC003#16, cycle := 5#64 } [(0x7E2000, 0x00#8), (0x7E2001, 0x00#8)] false = true := by
  decide +kernel

/-- V-X1. -/
theorem test_ldxImm_keepsHigh : leaves (codeState { Regs.reference with x := 0x1200#16 } [] [0xA2#8, 0xFF#8])
    { Regs.reference with x := 0x12FF#16, n := true, pc := 0xC002#16, cycle := 2#64 } [] false = true := by
  decide +kernel

/-- V-X2. -/
theorem test_ldyImm_16 : leaves (codeState { Regs.reference with e := false, xf := false } [] [0xA0#8, 0x34#8, 0x12#8])
    { Regs.reference with e := false, xf := false, y := 0x1234#16, pc := 0xC003#16, cycle := 3#64 } [] false = true := by
  decide +kernel

/-- V-X3. -/
theorem test_stxDir : leaves (codeState { Regs.reference with x := 0x12AB#16 } [(0x000011, 0x77#8)] [0x86#8, 0x10#8])
    { Regs.reference with x := 0x12AB#16, pc := 0xC002#16, cycle := 3#64 } [(0x000010, 0xAB#8), (0x000011, 0x77#8)] false = true := by
  decide +kernel

/-- V-X4. -/
theorem test_styAbs_16 : leaves (codeState { Regs.reference with e := false, xf := false, y := 0xCAFE#16 } [] [0x8C#8, 0x00#8, 0x03#8])
    { Regs.reference with e := false, xf := false, y := 0xCAFE#16, pc := 0xC003#16, cycle := 5#64 } [(0x000300, 0xFE#8), (0x000301, 0xCA#8)] false = true := by
  decide +kernel

/-- V-X5. -/
theorem test_cpxImm : leaves (codeState { Regs.reference with x := 0x0010#16 } [] [0xE0#8, 0x10#8])
    { Regs.reference with x := 0x0010#16, z := true, c := true, pc := 0xC002#16, cycle := 2#64 } [] false = true := by
  decide +kernel

/-- V-X6. -/
theorem test_cpyImm : leaves (codeState { Regs.reference with y := 0x0005#16 } [] [0xC0#8, 0x06#8])
    { Regs.reference with y := 0x0005#16, n := true, c := false, pc := 0xC002#16, cycle := 2#64 } [] false = true := by
  decide +kernel

/-- V-X7. -/
theorem test_inx_keepsHigh : leaves (codeState { Regs.reference with x := 0x12FF#16 } [] [0xE8#8])
    { Regs.reference with x := 0x1200#16, z := true, pc := 0xC001#16, cycle := 2#64 } [] false = true := by
  decide +kernel

/-- V-X8. -/
theorem test_inx_16 : leaves (codeState { Regs.reference with e := false, xf := false, x := 0x00FF#16 } [] [0xE8#8])
    { Regs.reference with e := false, xf := false, x := 0x0100#16, pc := 0xC001#16, cycle := 2#64 } [] false = true := by
  decide +kernel

/-- V-X9. -/
theorem test_iny : leaves (codeState { Regs.reference with y := 0x007F#16 } [] [0xC8#8])
    { Regs.reference with y := 0x0080#16, n := true, pc := 0xC001#16, cycle := 2#64 } [] false = true := by
  decide +kernel

/-- V-X10. -/
theorem test_dex_keepsHigh : leaves (codeState { Regs.reference with x := 0x3400#16 } [] [0xCA#8])
    { Regs.reference with x := 0x34FF#16, n := true, pc := 0xC001#16, cycle := 2#64 } [] false = true := by
  decide +kernel

/-- V-X11. -/
theorem test_dex_16 : leaves (codeState { Regs.reference with e := false, xf := false } [] [0xCA#8])
    { Regs.reference with e := false, xf := false, x := 0xFFFF#16, n := true, pc := 0xC001#16, cycle := 2#64 } [] false = true := by
  decide +kernel

/-- V-X12. -/
theorem test_dey : leaves (codeState { Regs.reference with y := 0x0001#16 } [] [0x88#8])
    { Regs.reference with y := 0x0000#16, z := true, pc := 0xC001#16, cycle := 2#64 } [] false = true := by
  decide +kernel

/-- V-T1. -/
theorem test_tax_keepsHigh : leaves (codeState { Regs.reference with b := 0x12#8, a := 0x80#8, x := 0x5500#16 } [] [0xAA#8])
    { Regs.reference with b := 0x12#8, a := 0x80#8, x := 0x5580#16, n := true, pc := 0xC001#16, cycle := 2#64 } [] false = true := by
  decide +kernel

/-- V-T2. -/
theorem test_tax_16 : leaves (codeState { Regs.reference with e := false, xf := false, b := 0x12#8, a := 0x80#8 } [] [0xAA#8])
    { Regs.reference with e := false, xf := false, b := 0x12#8, a := 0x80#8, x := 0x1280#16, pc := 0xC001#16, cycle := 2#64 } [] false = true := by
  decide +kernel

/-- V-T3. -/
theorem test_tay_16 : leaves (codeState { Regs.reference with e := false, xf := false } [] [0xA8#8])
    { Regs.reference with e := false, xf := false, z := true, pc := 0xC001#16, cycle := 2#64 } [] false = true := by
  decide +kernel

/-- V-T4. -/
theorem test_txa_16from8 : leaves (codeState { Regs.reference with e := false, m := false, b := 0x77#8, x := 0x12FE#16 } [] [0x8A#8])
    { Regs.reference with e := false, m := false, b := 0x00#8, x := 0x12FE#16, a := 0xFE#8, pc := 0xC001#16, cycle := 2#64 } [] false = true := by
  decide +kernel

/-- V-T5. -/
theorem test_tya : leaves (codeState { Regs.reference with y := 0x0080#16, b := 0x33#8 } [] [0x98#8])
    { Regs.reference with y := 0x0080#16, b := 0x33#8, a := 0x80#8, n := true, pc := 0xC001#16, cycle := 2#64 } [] false = true := by
  decide +kernel

/-- V-T6. -/
theorem test_txy : leaves (codeState { Regs.reference with e := false, xf := false, x := 0x8000#16 } [] [0x9B#8])
    { Regs.reference with e := false, xf := false, x := 0x8000#16, y := 0x8000#16, n := true, pc := 0xC001#16, cycle := 2#64 } [] false = true := by
  decide +kernel

/-- V-T7. -/
theorem test_tyx : leaves (codeState { Regs.reference with x := 0xAB11#16 } [] [0xBB#8])
    { Regs.reference with x := 0xAB00#16, z := true, pc := 0xC001#16, cycle := 2#64 } [] false = true := by
  decide +kernel

/-- V-T8. -/
theorem test_txs_emulation : leaves (codeState { Regs.reference with x := 0x0030#16 } [] [0x9A#8])
    { Regs.reference with x := 0x0030#16, s := 0x0130#16, pc := 0xC001#16, cycle := 2#64 } [] false = true := by
  decide +kernel

/-- V-T9. -/
theorem test_txs_native : leaves (codeState { Regs.reference with e := false, x := 0x1234#16 } [] [0x9A#8])
    { Regs.reference with e := false, x := 0x1234#16, s := 0x0034#16, pc := 0xC001#16, cycle := 2#64 } [] false = true := by
  decide +kernel

/-- V-T10. -/
theorem test_tsx : leaves (codeState { Regs.reference with s := 0x01FB#16 } [] [0xBA#8])
    { Regs.reference with s := 0x01FB#16, x := 0x00FB#16, n := true, pc := 0xC001#16, cycle := 2#64 } [] false = true := by
  decide +kernel

/-- V-T11. -/
theorem test_tcs_native : leaves (codeState { Regs.reference with e := false, b := 0x1F#8, a := 0xFF#8 } [] [0x1B#8])
    { Regs.reference with e := false, b := 0x1F#8, a := 0xFF#8, s := 0x1FFF#16, pc := 0xC001#16, cycle := 2#64 } [] false = true := by
  decide +kernel

/-- V-T12. -/
theorem test_tcs_emulation : leaves (codeState { Regs.reference with b := 0x1F#8, a := 0xFF#8 } [] [0x1B#8])
    { Regs.reference with b := 0x1F#8, a := 0xFF#8, s := 0x01FF#16, pc := 0xC001#16, cycle := 2#64 } [] false = true := by
  decide +kernel

/-- V-T13. -/
theorem test_tsc : leaves (codeState { Regs.reference with s := 0x01F0#16 } [] [0x3B#8])
    { Regs.reference with s := 0x01F0#16, b := 0x01#8, a := 0xF0#8, pc := 0xC001#16, cycle := 2#64 } [] false = true := by
  decide +kernel

/-- V-T14. -/
theorem test_tcd : leaves (codeState { Regs.reference with b := 0x21#8 } [] [0x5B#8])
    { Regs.reference with b := 0x21#8, d := 0x2100#16, pc := 0xC001#16, cycle := 2#64 } [] false = true := by
  decide +kernel

/-- V-T15. -/
theorem test_tdc : leaves (codeState { Regs.reference with b := 0x55#8, a := 0x55#8 } [] [0x7B#8])
    { Regs.reference with b := 0x00#8, a := 0x00#8, z := true, pc := 0xC001#16, cycle := 2#64 } [] false = true := by
  decide +kernel

/-- V-T16. -/
theorem test_xba : leaves (codeState { Regs.reference with b := 0x80#8, a := 0xFF#8 } [] [0xEB#8])
    { Regs.reference with b := 0xFF#8, a := 0x80#8, n := true, pc := 0xC001#16, cycle := 3#64 } [] false = true := by
  decide +kernel

/-- V-T17. -/
theorem test_xba_zero : leaves (codeState { Regs.reference with e := false, m := false, a := 0xFF#8 } [] [0xEB#8])
    { Regs.reference with e := false, m := false, a := 0x00#8, b := 0xFF#8, z := true, pc := 0xC001#16, cycle := 3#64 } [] false = true := by
  decide +kernel

/-- S5, V-T18. -/
theorem test_xce_leave : leaves (codeState Regs.reference [] [0xFB#8])
    { Regs.reference with e := false, c := true, pc := 0xC001#16, cycle := 2#64 } [] false = true := by
  decide +kernel

/-- V-T19. -/
theorem test_xce_enter : leaves (codeState { Regs.reference with e := false, m := false, xf := false, c := true, s := 0x1FF0#16, x := 0x1234#16 } [] [0xFB#8])
    { Regs.reference with e := true, m := true, xf := true, c := false, s := 0x01F0#16, x := 0x1234#16, pc := 0xC001#16, cycle := 2#64 } [] false = true := by
  decide +kernel

/-- V-T21. -/
theorem test_clc : leaves (codeState { Regs.reference with c := true } [] [0x18#8])
    { Regs.reference with c := false, pc := 0xC001#16, cycle := 2#64 } [] false = true := by
  decide +kernel

/-- R416. -/
theorem test_sec : leaves (codeState Regs.reference [] [0x38#8])
    { Regs.reference with c := true, pc := 0xC001#16, cycle := 2#64 } [] false = true := by
  decide +kernel

/-- R417. -/
theorem test_cli : leaves (codeState { Regs.reference with i := true } [] [0x58#8])
    { Regs.reference with i := false, pc := 0xC001#16, cycle := 2#64 } [] false = true := by
  decide +kernel

/-- V-T21. -/
theorem test_sei : leaves (codeState Regs.reference [] [0x78#8])
    { Regs.reference with i := true, pc := 0xC001#16, cycle := 2#64 } [] false = true := by
  decide +kernel

/-- V-T21. -/
theorem test_clv : leaves (codeState { Regs.reference with v := true } [] [0xB8#8])
    { Regs.reference with v := false, pc := 0xC001#16, cycle := 2#64 } [] false = true := by
  decide +kernel

/-- R420. -/
theorem test_cld : leaves (codeState { Regs.reference with df := true } [] [0xD8#8])
    { Regs.reference with df := false, pc := 0xC001#16, cycle := 2#64 } [] false = true := by
  decide +kernel

/-- V-T21. -/
theorem test_sed : leaves (codeState Regs.reference [] [0xF8#8])
    { Regs.reference with df := true, pc := 0xC001#16, cycle := 2#64 } [] false = true := by
  decide +kernel

/-- V-T22, W2. -/
theorem test_nop : leaves (codeState Regs.reference [] [0xEA#8])
    { Regs.reference with pc := 0xC001#16, cycle := 2#64 } [] false = true := by
  decide +kernel

/-- V-S1. -/
theorem test_pha : leaves (codeState { Regs.reference with s := 0x01FF#16, a := 0x42#8 } [] [0x48#8])
    { Regs.reference with s := 0x01FE#16, a := 0x42#8, pc := 0xC001#16, cycle := 3#64 } [(0x0001FF, 0x42#8)] false = true := by
  decide +kernel

/-- V-S2. -/
theorem test_pha_16 : leaves (codeState { Regs.reference with e := false, m := false, s := 0x1FFF#16, b := 0x12#8, a := 0x34#8 } [] [0x48#8])
    { Regs.reference with e := false, m := false, s := 0x1FFD#16, b := 0x12#8, a := 0x34#8, pc := 0xC001#16, cycle := 4#64 } [(0x001FFE, 0x34#8), (0x001FFF, 0x12#8)] false = true := by
  decide +kernel

/-- V-S3. -/
theorem test_pla : leaves (codeState { Regs.reference with s := 0x01FE#16 } [(0x0001FF, 0x80#8)] [0x68#8])
    { Regs.reference with s := 0x01FF#16, a := 0x80#8, n := true, pc := 0xC001#16, cycle := 4#64 } [] false = true := by
  decide +kernel

/-- V-S4. -/
theorem test_pla_pageWrap : leaves (codeState { Regs.reference with s := 0x01FF#16, a := 0x05#8 } [] [0x68#8])
    { Regs.reference with s := 0x0100#16, a := 0x00#8, z := true, pc := 0xC001#16, cycle := 4#64 } [] false = true := by
  decide +kernel

/-- V-S5. -/
theorem test_phx_16 : leaves (codeState { Regs.reference with e := false, xf := false, s := 0x1FFF#16, x := 0x1234#16 } [] [0xDA#8])
    { Regs.reference with e := false, xf := false, s := 0x1FFD#16, x := 0x1234#16, pc := 0xC001#16, cycle := 4#64 } [(0x001FFE, 0x34#8), (0x001FFF, 0x12#8)] false = true := by
  decide +kernel

/-- R445. -/
theorem test_phy : leaves (codeState { Regs.reference with s := 0x01FF#16, y := 0x0042#16 } [] [0x5A#8])
    { Regs.reference with s := 0x01FE#16, y := 0x0042#16, pc := 0xC001#16, cycle := 3#64 } [(0x0001FF, 0x42#8)] false = true := by
  decide +kernel

/-- V-S6. -/
theorem test_plx_16 : leaves (codeState { Regs.reference with e := false, xf := false, s := 0x1FFD#16 } [(0x001FFE, 0x34#8), (0x001FFF, 0x12#8)] [0xFA#8])
    { Regs.reference with e := false, xf := false, s := 0x1FFF#16, x := 0x1234#16, pc := 0xC001#16, cycle := 5#64 } [] false = true := by
  decide +kernel

/-- V-S7. -/
theorem test_ply : leaves (codeState { Regs.reference with y := 0xAB00#16, s := 0x01FC#16 } [] [0x7A#8])
    { Regs.reference with y := 0xAB00#16, s := 0x01FD#16, z := true, pc := 0xC001#16, cycle := 4#64 } [] false = true := by
  decide +kernel

/-- V-S8. -/
theorem test_php : leaves (codeState { Regs.reference with n := true } [] [0x08#8])
    { Regs.reference with n := true, s := 0x01FC#16, pc := 0xC001#16, cycle := 3#64 } [(0x0001FD, 0xB0#8)] false = true := by
  decide +kernel

/-- V-S9. -/
theorem test_plp_native : leaves (codeState { Regs.reference with e := false, s := 0x1FFE#16, n := true, c := true, df := true } [] [0x28#8])
    { Regs.reference with e := false, s := 0x1FFF#16, n := false, c := false, df := false, m := false, xf := false, pc := 0xC001#16, cycle := 4#64 } [] false = true := by
  decide +kernel

/-- V-S10. -/
theorem test_plp_emulation : leaves (codeState { Regs.reference with s := 0x01FC#16, n := true, v := true } [] [0x28#8])
    { Regs.reference with s := 0x01FD#16, n := false, v := false, pc := 0xC001#16, cycle := 4#64 } [] false = true := by
  decide +kernel

/-- V-S11. -/
theorem test_phd_pageWrap : leaves (codeState { Regs.reference with s := 0x0100#16, d := 0x2100#16 } [] [0x0B#8])
    { Regs.reference with s := 0x01FE#16, d := 0x2100#16, pc := 0xC001#16, cycle := 4#64 } [(0x000100, 0x21#8), (0x0001FF, 0x00#8)] false = true := by
  decide +kernel

/-- V-S12. -/
theorem test_pld : leaves (codeState { Regs.reference with e := false, s := 0x1FFD#16 } [(0x001FFF, 0x21#8)] [0x2B#8])
    { Regs.reference with e := false, s := 0x1FFF#16, d := 0x2100#16, pc := 0xC001#16, cycle := 5#64 } [] false = true := by
  decide +kernel

/-- V-S13. -/
theorem test_phk : leaves (codeState { Regs.reference with s := 0x01FF#16 } [(0x0001FF, 0x05#8)] [0x4B#8])
    { Regs.reference with s := 0x01FE#16, pc := 0xC001#16, cycle := 3#64 } [(0x0001FF, 0x00#8)] false = true := by
  decide +kernel

/-- V-S14. -/
theorem test_phb : leaves (codeState { Regs.reference with s := 0x01FF#16, dbr := 0x7E#8 } [] [0x8B#8])
    { Regs.reference with s := 0x01FE#16, dbr := 0x7E#8, pc := 0xC001#16, cycle := 3#64 } [(0x0001FF, 0x7E#8)] false = true := by
  decide +kernel

/-- V-S15. -/
theorem test_plb : leaves (codeState { Regs.reference with s := 0x01FE#16 } [(0x0001FF, 0x7E#8)] [0xAB#8])
    { Regs.reference with s := 0x01FF#16, dbr := 0x7E#8, pc := 0xC001#16, cycle := 4#64 } [] false = true := by
  decide +kernel

/-- V-C1. -/
theorem test_jmpAbs : leaves (codeState Regs.reference [] [0x4C#8, 0x00#8, 0xC2#8])
    { Regs.reference with pc := 0xC200#16, cycle := 3#64 } [] true = true := by
  decide +kernel

/-- V-C2. -/
theorem test_jmpLong : leaves (codeState Regs.reference [] [0x5C#8, 0x56#8, 0x34#8, 0x12#8])
    { Regs.reference with pbr := 0x12#8, pc := 0x3456#16, cycle := 4#64 } [] true = true := by
  decide +kernel

/-- V-AM20. -/
theorem test_jmpAbsInd_native : leaves (codeState { Regs.reference with e := false } [(0x001300, 0x80#8)] [0x6C#8, 0xFF#8, 0x12#8])
    { Regs.reference with e := false, pc := 0x8000#16, cycle := 5#64 } [] true = true := by
  decide +kernel

/-- V-AM21, V-C4. -/
theorem test_jmpAbsInd_pageWrap : leaves (codeState Regs.reference [(0x001200, 0x90#8)] [0x6C#8, 0xFF#8, 0x12#8])
    { Regs.reference with pc := 0x9000#16, cycle := 5#64 } [] true = true := by
  decide +kernel

/-- S4, V-C5. -/
theorem test_jsrAbs : leaves (codeState Regs.reference [] [0x20#8, 0x00#8, 0xC2#8])
    { Regs.reference with pc := 0xC200#16, s := 0x01FB#16, cycle := 6#64 } [(0x0001FC, 0x02#8), (0x0001FD, 0xC0#8)] true = true := by
  decide +kernel

/-- V-C6. -/
theorem test_jsrAbs_bankWrap : leaves (codeState { Regs.reference with e := false, pbr := 0x05#8, pc := 0xFFFD#16, s := 0x1FFF#16 } [] [0x20#8, 0x00#8, 0x80#8])
    { Regs.reference with e := false, pbr := 0x05#8, pc := 0x8000#16, s := 0x1FFD#16, cycle := 6#64 } [(0x001FFE, 0xFF#8), (0x001FFF, 0xFF#8)] true = true := by
  decide +kernel

/-- V-C7. -/
theorem test_rts : leaves (codeState { Regs.reference with s := 0x01FB#16 } [(0x0001FC, 0x02#8), (0x0001FD, 0xC0#8)] [0x60#8])
    { Regs.reference with s := 0x01FD#16, pc := 0xC003#16, cycle := 6#64 } [] true = true := by
  decide +kernel

/-- V-C8. -/
theorem test_rti_emulation : leaves (codeState { Regs.reference with s := 0x01FC#16 } [(0x0001FD, 0x03#8), (0x0001FF, 0xC1#8)] [0x40#8])
    { Regs.reference with s := 0x01FF#16, z := true, c := true, pc := 0xC100#16, cycle := 6#64 } [] true = true := by
  decide +kernel

/-- V-C9. -/
theorem test_rti_native : leaves (codeState { Regs.reference with e := false, m := false, xf := false, s := 0x1FF0#16 } [(0x001FF1, 0x30#8), (0x001FF3, 0x80#8), (0x001FF4, 0x01#8)] [0x40#8])
    { Regs.reference with e := false, m := true, xf := true, s := 0x1FF4#16, pc := 0x8000#16, pbr := 0x01#8, cycle := 7#64 } [] true = true := by
  decide +kernel

/-- S6, V-C10. -/
theorem test_beq : leaves (codeState { Regs.reference with z := true, pc := 0xC010#16 } [] [0xF0#8, 0x02#8])
    { Regs.reference with z := true, pc := 0xC014#16, cycle := 3#64 } [] true = true := by
  decide +kernel

/-- V-C11. -/
theorem test_bra_crossEmulation : leaves (codeState { Regs.reference with pc := 0xC010#16 } [] [0x80#8, 0x80#8])
    { Regs.reference with pc := 0xBF92#16, cycle := 4#64 } [] true = true := by
  decide +kernel

/-- V-C11. -/
theorem test_bra_crossNative : leaves (codeState { Regs.reference with e := false, pc := 0xC010#16 } [] [0x80#8, 0x80#8])
    { Regs.reference with e := false, pc := 0xBF92#16, cycle := 3#64 } [] true = true := by
  decide +kernel

/-- V-C12. -/
theorem test_bne_notTaken : leaves (codeState { Regs.reference with z := true, pc := 0xC010#16 } [] [0xD0#8, 0x05#8])
    { Regs.reference with z := true, pc := 0xC012#16, cycle := 2#64 } [] true = true := by
  decide +kernel

/-- V-C15. -/
theorem test_bne_crossAfterFetch : leaves (codeState { Regs.reference with pc := 0xC0FD#16 } [] [0xD0#8, 0x01#8])
    { Regs.reference with pc := 0xC100#16, cycle := 4#64 } [] true = true := by
  decide +kernel

/-- V-C13. -/
theorem test_bpl_self : leaves (codeState Regs.reference [] [0x10#8, 0xFE#8])
    { Regs.reference with pc := 0xC000#16, cycle := 3#64 } [] true = true := by
  decide +kernel

/-- V-C14. -/
theorem test_bmi : leaves (codeState { Regs.reference with n := true, pc := 0xC010#16 } [] [0x30#8, 0x10#8])
    { Regs.reference with n := true, pc := 0xC022#16, cycle := 3#64 } [] true = true := by
  decide +kernel

/-- V-C14. -/
theorem test_bvc : leaves (codeState { Regs.reference with pc := 0xC010#16 } [] [0x50#8, 0x10#8])
    { Regs.reference with pc := 0xC022#16, cycle := 3#64 } [] true = true := by
  decide +kernel

/-- V-C14. -/
theorem test_bvs : leaves (codeState { Regs.reference with v := true, pc := 0xC010#16 } [] [0x70#8, 0x10#8])
    { Regs.reference with v := true, pc := 0xC022#16, cycle := 3#64 } [] true = true := by
  decide +kernel

/-- V-C14. -/
theorem test_bcc : leaves (codeState { Regs.reference with pc := 0xC010#16 } [] [0x90#8, 0x10#8])
    { Regs.reference with pc := 0xC022#16, cycle := 3#64 } [] true = true := by
  decide +kernel

/-- V-C14. -/
theorem test_bcs : leaves (codeState { Regs.reference with c := true, pc := 0xC010#16 } [] [0xB0#8, 0x10#8])
    { Regs.reference with c := true, pc := 0xC022#16, cycle := 3#64 } [] true = true := by
  decide +kernel

/-! ### Faults (V-F1 to V-F5) -/

/-- Does a step fault with this code and these registers and memory? -/
def faults (s : State) (code : Nat) (r : Regs) (mem : Memory) : Bool :=
  match step s with
  | .fault f =>
    let t := match f with
      | .unimplementedOpcode _ _ t => t
      | .assertFailure _ _ _ t => t
      | .structuralIr _ _ t => t
      | .outOfRangeMemory _ _ t => t
    f.code == code && t.r == r && t.mem == mem
  | .next _ => false
  | .refused _ => false

/-- The same with P_MEM_BYTES = 0x10000. -/
def small (s : State) : State := { s with cfg := { s.cfg with memBytes := 0x10000 } }

/-- V-F1. -/
theorem test_rep_unimplemented :
    let s := codeState Regs.reference [] [0xC2#8, 0x30#8]
    faults s 1 Regs.reference s.mem = true := by
  decide +kernel

/-- V-F3. -/
theorem test_load_out_of_range :
    let s := small (codeState Regs.reference [] [0xAF#8, 0x00#8, 0x00#8, 0x01#8])
    faults s 4 { Regs.reference with pc := 0xC004#16, cycle := 4#64 } s.mem = true := by
  decide +kernel

/-- V-F4. -/
theorem test_store_half_out_of_range :
    let r := { Regs.reference with e := false, m := false, b := 0xBE#8, a := 0xEF#8 }
    let s := small (codeState r [] [0x8F#8, 0xFF#8, 0xFF#8, 0x00#8])
    faults s 4 { r with pc := 0xC004#16, cycle := 5#64 } (Memory.write s.mem 0xFFFF 0xEF#8) = true := by
  decide +kernel

/-- V-F5. -/
theorem test_opcode_out_of_range :
    let r := { Regs.reference with pbr := 0x01#8 }
    faults (small { State.reset with r := r }) 4 r [] = true := by
  decide +kernel

/-- R504, R507: the second operand byte of STA a lies out of range; two bytes are fetched. -/
theorem test_operand_fetch_out_of_range :
    let s := { codeState Regs.reference [] [0x8D#8, 0x34#8, 0x12#8] with cfg := { Config.default with memBytes := 0xC002 } }
    faults s 4 { Regs.reference with pc := 0xC002#16, cycle := 2#64 } s.mem = true := by
  decide +kernel

/-! ### One step of an IR node (V-IR1 to V-IR30) -/

/-- The word of an IR op. -/
def nodeWord (i : Instr) : Node :=
  match encode launchCtx i with
  | .node w => w
  | .guest _ => 0#64

/-- A machine whose next step is the node `i`, after nodes with the given values; handle k names the k-th. -/
def nodeState (before : List (Instr × IrVal)) (i : Instr) : State :=
  { State.reset with arena := (before.map (fun p => nodeWord p.1)) ++ [nodeWord i], vals := before.map Prod.snd }

/-- A value of some width, from a node that is no Const. -/
def value (wid n : Nat) : Instr × IrVal := (.irNot 0#16, { val := BitVec.ofNat 64 n, wid := wid })

/-- A Const node and its value. -/
def const (wid n : Nat) : Instr × IrVal :=
  (.irConst (BitVec.ofNat 8 wid) 0#8 (BitVec.ofNat 32 n), { val := BitVec.ofNat 64 n, wid := wid })

/-- Bus, stamp, predicate and a MemState of them: handles 0 to 3. -/
def memState (bus alive : Nat) : List (Instr × IrVal) :=
  [const 8 bus, value 64 0, const 1 alive, (.irMemState 0#16 1#16 2#16, { val := 0#64, wid := 0 })]

/-- Does a step give this value, registers and memory unchanged? -/
def gives (s : State) (wid n : Nat) : Bool :=
  match step s with
  | .next t => t.vals == s.vals ++ [{ val := BitVec.ofNat 64 n, wid := wid }] && t.r == s.r && t.mem == s.mem
  | .fault _ => false
  | .refused _ => false

/-- Is a step this structural error? -/
def structural (s : State) (why : IrReason) : Bool :=
  match step s with
  | .fault (.structuralIr _ w _) => w == why
  | _ => false

/-- V-IR1, V-IR2. -/
theorem test_irConst :
    gives (nodeState [] (.irConst 8#8 0#8 0x142#32)) 8 0x42 &&
      gives (nodeState [] (.irConst 16#8 1#8 0xFFFFFFFF#32)) 16 0xFFFF = true := by
  decide +kernel

/-- V-IR3, V-IR4. -/
theorem test_irConst_signed_and_width :
    gives (nodeState [] (.irConst 64#8 1#8 0x80000000#32)) 64 0xFFFFFFFF80000000 &&
      structural (nodeState [] (.irConst 12#8 0#8 1#32)) .badWidth = true := by
  decide +kernel

/-- V-IR27, V-IR28. -/
theorem test_irConst48_and_unused_tag :
    structural (nodeState [] (.irConst48 0#48)) .reservedConst48 &&
      structural { nodeState [] (.irConst48 0#48) with arena := [28#64] } .unusedTag = true := by
  decide +kernel

/-- V-IR5. -/
theorem test_irNot : gives (nodeState [value 8 0x0F] (.irNot 0#16)) 8 0xF0 = true := by
  decide +kernel

/-- V-IR6, V-IR7. -/
theorem test_irAdd_wraps :
    gives (nodeState [value 8 0xFF, value 8 1] (.irAdd 0#16 1#16)) 8 0 &&
      gives (nodeState [value 9 0xFF, value 9 1] (.irAdd 0#16 1#16)) 9 0x100 = true := by
  decide +kernel

/-- V-IR8. -/
theorem test_irAdd_first_width : gives (nodeState [value 8 0x10, value 16 0x0105] (.irAdd 0#16 1#16)) 8 0x15 = true := by
  decide +kernel

/-- V-IR9. -/
theorem test_irSub : gives (nodeState [value 16 0, value 16 1] (.irSub 0#16 1#16)) 16 0xFFFF = true := by
  decide +kernel

/-- R168 to R170. -/
theorem test_irAnd_irOr_irXor :
    gives (nodeState [value 8 0x0C, value 8 0x0A] (.irAnd 0#16 1#16)) 8 0x08 &&
      gives (nodeState [value 8 0x0C, value 8 0x0A] (.irOr 0#16 1#16)) 8 0x0E &&
      gives (nodeState [value 8 0x0C, value 8 0x0A] (.irXor 0#16 1#16)) 8 0x06 = true := by
  decide +kernel

/-- V-IR10. -/
theorem test_irShiftLeft : gives (nodeState [value 8 0x81, const 8 1] (.irShiftLeft 0#16 1#16)) 9 0x102 = true := by
  decide +kernel

/-- V-IR11, V-IR12. -/
theorem test_irShiftRight :
    gives (nodeState [value 9 0x102, const 8 1] (.irShiftRight 0#16 1#16)) 8 0x81 &&
      structural (nodeState [value 8 1, const 8 9] (.irShiftRight 0#16 1#16)) .badRange = true := by
  decide +kernel

/-- V-IR13, V-IR14. -/
theorem test_irCat :
    gives (nodeState [value 8 0x12, value 8 0x34] (.irCat 0#16 1#16)) 16 0x1234 &&
      structural (nodeState [value 64 1, value 1 1] (.irCat 0#16 1#16)) .badWidth = true := by
  decide +kernel

/-- V-IR15, V-IR16. -/
theorem test_irExtract :
    gives (nodeState [value 16 0xBEEF, const 8 8, const 8 8] (.irExtract 0#16 1#16 2#16)) 8 0xBE &&
      structural (nodeState [value 16 0xBEEF, const 8 12, const 8 8] (.irExtract 0#16 1#16 2#16)) .badRange = true := by
  decide +kernel

/-- V-IR17, V-IR18. -/
theorem test_irZext :
    gives (nodeState [value 8 0xFF, const 8 9] (.irZext 0#16 1#16)) 9 0xFF &&
      structural (nodeState [value 16 1, const 8 8] (.irZext 0#16 1#16)) .badRange = true := by
  decide +kernel

/-- V-IR19. -/
theorem test_irEq_irNeq :
    gives (nodeState [value 16 5, value 8 5] (.irEq 0#16 1#16)) 1 1 &&
      gives (nodeState [value 16 5, value 8 5] (.irNeq 0#16 1#16)) 1 0 = true := by
  decide +kernel

/-- V-IR20. -/
theorem test_irTernary :
    gives (nodeState [value 1 0, value 16 0x1234, value 8 0x56] (.irTernary 0#16 1#16 2#16)) 8 0x56 = true := by
  decide +kernel

/-- V-IR29; a predicate of 2 bits is a mismatched width (R179, R190). -/
theorem test_irMemState :
    structural (nodeState [const 8 2, value 64 0, const 1 1] (.irMemState 0#16 1#16 2#16)) .badBus &&
      structural (nodeState [const 8 1, value 64 0, value 2 1] (.irMemState 0#16 1#16 2#16)) .badWidth &&
      gives (nodeState [const 8 1, value 64 0, const 1 1] (.irMemState 0#16 1#16 2#16)) 0 0 = true := by
  decide +kernel

/-- V-IR21: a dead store. -/
theorem test_irStore8_dead :
    gives (nodeState (memState 1 0 ++ [value 24 0x10, value 8 0x99]) (.irStore8 3#16 4#16 5#16)) 8 0x99 = true := by
  decide +kernel

/-- V-IR22: a dead load, out of range. -/
theorem test_irLoad8_dead :
    gives (small (nodeState (memState 1 0 ++ [value 24 0x10000]) (.irLoad8 3#16 4#16))) 8 0 = true := by
  decide +kernel

/-- V-IR23: the slot of N takes 1 bit. -/
theorem test_irStore8_slot :
    leaves (nodeState (memState 0 1 ++ [value 8 9, value 8 0xFF]) (.irStore8 3#16 4#16 5#16))
      { Regs.reference with n := true } [] false = true := by
  decide +kernel

/-- V-IR24, and slot 5 read by Load16. -/
theorem test_irLoad_slot :
    structural (nodeState (memState 0 1 ++ [value 8 19]) (.irLoad8 3#16 4#16)) .badRegister &&
      gives (nodeState (memState 0 1 ++ [value 8 5]) (.irLoad16 3#16 4#16)) 16 0x01FD = true := by
  decide +kernel

/-- V-IR25. -/
theorem test_irStore16_wraps :
    leaves (nodeState (memState 1 1 ++ [value 24 0xFFFFFF, value 16 0xBEEF]) (.irStore16 3#16 4#16 5#16))
      Regs.reference [(0xFFFFFF, 0xEF#8), (0, 0xBE#8)] false = true := by
  decide +kernel

/-- R187, little-endian. -/
theorem test_irStore32_irStore64 :
    leaves (nodeState (memState 1 1 ++ [value 24 0x10, value 32 0x12345678]) (.irStore32 3#16 4#16 5#16))
      Regs.reference [(0x10, 0x78#8), (0x11, 0x56#8), (0x12, 0x34#8), (0x13, 0x12#8), (0x14, 0#8)] false &&
    leaves (nodeState (memState 1 1 ++ [value 24 0x10, value 64 0x0102030405060708]) (.irStore64 3#16 4#16 5#16))
      Regs.reference [(0x10, 8#8), (0x17, 1#8), (0x18, 0#8)] false = true := by
  decide +kernel

/-- R187, little-endian. -/
theorem test_irLoad32_irLoad64 :
    let bytes : Memory := [(0x10, 0x78#8), (0x11, 0x56#8), (0x12, 0x34#8), (0x13, 0x12#8)]
    gives { nodeState (memState 1 1 ++ [value 24 0x10]) (.irLoad32 3#16 4#16) with mem := bytes } 32 0x12345678 &&
      gives { nodeState (memState 1 1 ++ [value 24 0x0F]) (.irLoad64 3#16 4#16) with mem := bytes } 64 0x1234567800 = true := by
  decide +kernel

/-- R181. -/
theorem test_irStateRead :
    gives { nodeState [value 8 4, const 8 2] (.irStateRead 0#16 1#16) with aux := [(4, 0x34#8), (5, 0x12#8)] } 16 0x1234 = true := by
  decide +kernel

/-- R182: the state namespace is written, guest memory is not. -/
theorem test_irStateWrite :
    (match step (nodeState [value 8 4, const 8 2, value 16 0xBEEF] (.irStateWrite 0#16 1#16 2#16)) with
      | .next t => t.aux == [(4, 0xEF#8), (5, 0xBE#8)] && t.mem == []
      | _ => false) = true := by
  decide +kernel

/-- V-IR26, and operands that agree. -/
theorem test_irAssert :
    (match step (nodeState [value 8 0xEA, value 8 0xEB] (.irAssert 0#16 1#16)) with
      | .fault (.assertFailure _ expected found _) => expected == 0xEB#64 && found == 0xEA#64
      | _ => false) &&
      gives (nodeState [value 8 0xEA, value 8 0xEA] (.irAssert 0#16 1#16)) 0 0 = true := by
  decide +kernel

/-- P1: node 2 may not name itself, nor the sentinel. -/
theorem test_dangling_handle :
    structural (nodeState [value 8 1, value 8 2] (.irAdd 2#16 1#16)) .badHandle &&
      structural (nodeState [value 8 1, value 8 2] (.irAdd 0#16 sentinel)) .badHandle = true := by
  decide +kernel

/-- P1 in a slot that Not does not use: node 1 names itself there; the older node 0 may stand there (log 10). -/
theorem test_unused_slot :
    let s := nodeState [value 8 1] (.irNot 0#16)
    structural { s with arena := [nodeWord (value 8 1).1, 0xFFFF_0001_0000_0002#64] } .badHandle &&
      gives { s with arena := [nodeWord (value 8 1).1, 0xFFFF_0000_0000_0002#64] } 8 0xFE = true := by
  decide +kernel

/-! ### Placing a word, the emitter, the trace, the ROM -/

/-- A placed guest word is the first instruction after reset. -/
theorem test_withFetchWord_guest :
    leaves (State.reset.withFetchWord 16 0x42A9) { Regs.reference with a := 0x42#8, pc := 0xC002#16, cycle := 2#64 }
      [] false = true := by
  decide +kernel

/-- A placed node is the next to be evaluated: Not of the constant 1 is 0. -/
theorem test_withFetchWord_node :
    gives (State.reset.withFetchWord 64 0xFFFF_FFFF_0000_0002) 1 0 = true := by
  decide +kernel

/-- A block with nothing in it. -/
def emptyBuild : Build :=
  { cfg := Config.default, arena := [], em := Emitter.empty 0xC000#16 0x00#8, ending := false }

/-- V-EM1, P2. -/
theorem test_constant_shared :
    (match (do let x ← constV 16 0x1234; let y ← constV 16 0x1234; pure (x, y) : Emit (V × V)) emptyBuild with
      | .ok (x, y) b => x == y && b.arena.length == 1
      | .error _ _ => false) = true := by
  decide +kernel

/-- R202, D22: an integer beside a 16-bit handle is boxed as a 16-bit Const, beside an 8-bit one as an 8-bit Const. -/
theorem test_immediate_takes_first_width :
    (match (do let x ← constV 16 0x1234; let y ← constV 8 0x56; let _ ← addW (.ssa x) (.imm 1); extractW (.ssa y) (.imm 4) (.imm 2) :
        Emit V) emptyBuild with
      | .ok v b => v.w == 2 &&
        b.arena == ([.irConst 16#8 0#8 0x1234#32, .irConst 8#8 0#8 0x56#32, .irConst 16#8 0#8 1#32, .irAdd 0#16 2#16,
          .irConst 8#8 0#8 4#32, .irConst 8#8 0#8 2#32, .irExtract 1#16 4#16 5#16] : List Instr).map nodeWord
      | .error _ _ => false) = true := by
  decide +kernel

/-- R216: a block's arena starts with `Const(1, 1)` and its burnt-in start PC and PBR. -/
theorem test_prologue_burns_start :
    (match prologueV { emptyBuild with em := Emitter.empty 0xC123#16 0x7E#8 } with
      | .ok _ b => b.arena.take 3 ==
        ([.irConst 1#8 0#8 1#32, .irConst 16#8 0#8 0xC123#32, .irConst 8#8 0#8 0x7E#32] : List Instr).map nodeWord
      | .error _ _ => false) = true := by
  decide +kernel

/-- V-F6. -/
theorem test_trace_line : traceLine Regs.reference 0xA2#8 = "C000  A2  A:00 X:00 Y:00 P:30 SP:FD CYC:  0 SL:241" := by
  decide +kernel

/-- W3, V-F7. -/
theorem test_trace_counters :
    [traceCyc 0, traceCyc 7, traceCyc 114, traceCyc 2273, traceCyc 2274] = [0, 21, 1, 340, 2] ∧
      [traceSl 0, traceSl 7, traceSl 114, traceSl 2273, traceSl 2274] = [241, 241, 242, 260, -1] := by
  decide +kernel

/-- V-F9, on a file too short. -/
theorem test_rom_short_refused : ingestRom [] (List.replicate 1000 0x00#8) = none := by
  decide +kernel

/-- The reset memory is canonical. -/
theorem test_reset_memory_wf : Memory.wf State.reset.mem = true := by
  decide +kernel

/-- Writing what an unlisted address reads as removes the entry. -/
theorem test_memory_canonical :
    Memory.write (Memory.write (Memory.write [] 5 1#8) 3 2#8) 5 0#8 = [(3, 2#8)] := by
  decide +kernel

/-- R115's examples, and the long forms it writes. -/
theorem test_assembler_text :
    [asmText launchCtx (.ldaImm 0x0042#16), asmText launchCtx (.ldaDir 0x10#8), asmText launchCtx (.adcImm 0x0001#16),
      asmText launchCtx (.jsrAbs 0xC200#16), asmText launchCtx (.beq 0x02#8), asmText launchCtx (.jmpLong 0x123456#24),
      asmText launchCtx (.ldaLongX 0x123456#24), asmText launchCtx .aslAcc, asmText launchCtx (.irAdd 3#16 4#16)] =
      ["LDA #$42", "LDA $10", "ADC #$01", "JSR $C200", "BEQ $+4", "JMP $123456", "LDA $123456,X", "ASL A", "Add(3, 4)"] := by
  decide +kernel

/-! ### The driver: one lifted instruction, interpreted and finalized -/

/-- Do `n` driver iterations leave these registers and bytes, with no block open? -/
def drives (n : Nat) (s : State) (r : Regs) (bytes : List (Nat × Byte)) : Bool :=
  match driverRun n s with
  | .next t => t.r == r && bytes.all (fun p => Memory.read t.mem p.1 == p.2) && t.em.isNone
  | .fault _ => false
  | .refused _ => false

/-- V-EM8. -/
theorem test_driver_ldaImm :
    drives 1 (codeState Regs.reference [] [0xA9#8, 0x42#8])
      { Regs.reference with a := 0x42#8, pc := 0xC002#16, cycle := 2#64 } [] = true := by
  decide +kernel

/-- V-EM7: the zero-chain of a 16-bit ADC. -/
theorem test_driver_adc16 :
    drives 1 (codeState { Regs.reference with e := false, m := false, a := 0xFF#8 } [] [0x69#8, 0x01#8, 0x00#8])
      { Regs.reference with e := false, m := false, a := 0x00#8, b := 0x01#8, pc := 0xC003#16, cycle := 3#64 } [] = true := by
  decide +kernel

/-- S4: JSR ends its block. -/
theorem test_driver_jsr :
    drives 1 (codeState Regs.reference [] [0x20#8, 0x00#8, 0xC2#8])
      { Regs.reference with pc := 0xC200#16, s := 0x01FB#16, cycle := 6#64 } [(0x1FD, 0xC0#8), (0x1FC, 0x02#8)] = true := by
  decide +kernel

/-- V-EM4: two instructions, one block. -/
theorem test_driver_sec_bra :
    drives 2 (codeState Regs.reference [] [0x38#8, 0x80#8, 0x00#8])
      { Regs.reference with c := true, pc := 0xC003#16, cycle := 5#64 } [] = true := by
  decide +kernel

/-! ### Witnesses: the hypotheses of each obligation are met together

Each theorem shows a concrete state and operands with every hypothesis of the obligation its name ends in, one for each clause
where the clauses' hypotheses differ. -/

theorem full_reset : State.reset.fullMemory := Nat.le_refl _

theorem test_witness_DecodeEncodeRoundTrip :
    Instr.wellFormed launchCtx (.ldaImm 0x0042#16) = true ∧ Instr.wellFormed launchCtx (.irAdd 3#16 0xFFFE#16) = true := by
  decide

theorem test_witness_GuestBytesHaveOneMeaning : decode launchCtx (.guest [0xA9#8, 0x42#8]) = .ok (.ldaImm 0x0042#16) := rfl

theorem test_witness_EveryOpcodeDecodesAtItsLength :
    [0x34#8, 0x12#8].length + 1 = instrLength launchCtx 0xAD#8 ∧ ([] : List Byte).length + 1 = instrLength launchCtx 0xC2#8 := by
  decide

/-- The instruction ends at the last byte of the bank: its operand is fetched at offset 0. -/
theorem test_witness_StepRunsDecodedInstruction :
    let s := codeState { Regs.reference with pc := 0xFFFF#16 } [] [0xA9#8, 0x42#8]
    let n := instrLength s.ctx (byteAt s.mem (mkAddr s.r.pbr s.r.pc))
    s.pendingNode = none ∧
      (∀ k, k < n → (mkAddr s.r.pbr (s.r.pc + BitVec.ofNat 16 k)).toNat < s.cfg.memBytes) ∧
      decode s.ctx (.guest (codeAt s.mem s.r.pbr s.r.pc n)) = .ok (.ldaImm 0x0042#16) := by
  refine ⟨rfl, fun k _ => ?_, rfl⟩
  exact Nat.lt_of_lt_of_le (BitVec.isLt _) (Nat.le_refl 16777216)

/-- Both unused slots of Not at the sentinel; one naming the node itself, index 1; tag 27, the last used, and 28, the first
that is not. -/
theorem test_witness_StepEvaluatesPendingNode :
    let s := nodeState [value 8 1] (.irNot 0#16)
    let w : Node := 0xFFFF_FFFF_0000_0002#64
    let stray : Node := 0xFFFF_0001_0000_0002#64
    (s.pendingNode = some w ∧ decodeNode w = .ok (.irNot 0#16) ∧ unusedSlots w (.irNot 0#16) = [0xFFFF#16, 0xFFFF#16]) ∧
    (State.pendingNode { s with arena := [w, stray] } = some stray ∧ decodeNode stray = .ok (.irNot 0#16) ∧
      1#16 ∈ unusedSlots stray (.irNot 0#16) ∧ 1#16 ≠ 0xFFFF#16 ∧ s.vals.length ≤ (1#16).toNat) ∧
    (decodeNode 0xFFFF_0001_0000_001B#64 = .ok (.irAssert 0#16 1#16)) ∧
    State.pendingNode { State.reset with arena := [28#64] } = some 28#64 ∧ 28 ≤ (Node.tag 28#64).toNat := by
  exact ⟨⟨rfl, rfl, rfl⟩, ⟨rfl, rfl, by decide, by decide, by decide⟩, rfl, rfl, by decide⟩

/-- The opcode at the first address out of range; then LDA al with its opcode at the last address in range, and with its last
byte at the first address out of range. -/
theorem test_witness_OpcodeReadOutOfRangeFaultsFirst :
    let s := small { State.reset with r := { Regs.reference with pbr := 0x01#8, pc := 0x0000#16 } }
    let u (bytes : Nat) : State :=
      { codeState Regs.reference [] [0xAF#8, 0x00#8, 0x00#8, 0x01#8] with cfg := { Config.default with memBytes := bytes } }
    let at_ (k : Nat) : Addr := mkAddr 0x00#8 (0xC000#16 + BitVec.ofNat 16 k)
    (s.pendingNode = none ∧ s.cfg.memBytes ≤ (mkAddr s.r.pbr s.r.pc).toNat) ∧
    (u 0xC001).pendingNode = none ∧ instrLength (u 0xC001).ctx (byteAt (u 0xC001).mem (at_ 0)) = 4 ∧
    ((∀ j, j < 1 → (at_ j).toNat < 0xC001) ∧ 0xC001 ≤ (at_ 1).toNat) ∧
    ((∀ j, j < 3 → (at_ j).toNat < 0xC003) ∧ 0xC003 ≤ (at_ 3).toNat) := by
  exact ⟨⟨rfl, by decide⟩, rfl, by decide, ⟨by decide, by decide⟩, by decide, by decide⟩

theorem test_witness_UnimplementedOpcodesFaultWithNoEffect :
    let s := codeState Regs.reference [] [0xC2#8]
    (0xC2#8, Instr.rep) ∈ unimplementedInstrs ∧ s.pendingNode = none ∧
      (mkAddr s.r.pbr s.r.pc).toNat < s.cfg.memBytes ∧ byteAt s.mem (mkAddr s.r.pbr s.r.pc) = 0xC2#8 := by
  exact ⟨by decide, rfl, by decide, by decide⟩

/-- With P_MEM_BYTES = 0x10000: a read of the first address out of range, and of a 16-bit datum whose low byte is the last
address in range, for a form of each family; a store of each. -/
theorem test_witness_DataAccessOutOfRangeFaults :
    let s := small { State.reset with r := { Regs.reference with dbr := 0x01#8 } }
    let u := small { State.reset with r := { Regs.reference with e := false, m := false, xf := false } }
    let top : Mode := .abs 0xFFFF#16
    (AluOp.lda.memForm (.abs 0#16) = some (.ldaAbs 0#16) ∧ Idx.x.ldForm (.abs 0#16) = some (.ldxAbs 0#16) ∧
      s.firstOut (readTrail false s.mem s.r (.abs 0#16) (widthA s.r)) = some (0, 0x010000#24) ∧
      s.firstOut (readTrail false s.mem s.r (.abs 0#16) (widthX s.r)) = some (0, 0x010000#24)) ∧
    (bitForm top = some (.bitAbs 0xFFFF#16) ∧ Idx.y.cpForm top = some (.cpyAbs 0xFFFF#16) ∧
      RmwOp.inc.memForm top = some (.incAbs 0xFFFF#16) ∧
      u.firstOut (readTrail false u.mem u.r top (widthA u.r)) = some (1, 0x010000#24) ∧
      u.firstOut (readTrail false u.mem u.r top (widthX u.r)) = some (1, 0x010000#24) ∧
      u.firstOut (readTrail true u.mem u.r top (widthA u.r)) = some (1, 0x010000#24)) ∧
    (StoreOp.sta.form (.abs 0#16) = some (.staAbs 0#16) ∧ s.firstOut (ptrTrail s.r (.abs 0#16)) = none ∧
      s.cfg.memBytes ≤ (eaOf s.mem s.r (.abs 0#16)).addr.toNat) ∧
    (StoreOp.sta.form top = some (.staAbs 0xFFFF#16) ∧ u.firstOut (ptrTrail u.r top) = none ∧
      (eaOf u.mem u.r top).addr.toNat < u.cfg.memBytes ∧ StoreOp.width .sta u.r = .w16 ∧
      u.cfg.memBytes ≤ (eaOf u.mem u.r top).hi.toNat) := by
  refine ⟨⟨rfl, rfl, ?_, ?_⟩, ⟨rfl, rfl, rfl, ?_, ?_, ?_⟩, ⟨rfl, rfl, ?_⟩, rfl, rfl, ?_, rfl, ?_⟩ <;> decide +kernel

/-- With P_MEM_BYTES = 0x100, a pointer whose second byte is the first address out of range, for a reading form and a store. -/
theorem test_witness_DataAccessOutOfRangeFaults_pointer :
    let s : State := { State.reset with
      cfg := { Config.default with memBytes := 0x100 }, r := { Regs.reference with e := false } }
    AluOp.lda.memForm (.ind 0xFF#8) = some (.ldaInd 0xFF#8) ∧ StoreOp.sta.form (.ind 0xFF#8) = some (.staInd 0xFF#8) ∧
      s.firstOut (ptrTrail s.r (.ind 0xFF#8)) = some (1, 0x000100#24) ∧
      s.firstOut (readTrail false s.mem s.r (.ind 0xFF#8) (widthA s.r)) = some (1, 0x000100#24) := by
  exact ⟨rfl, rfl, by decide +kernel, by decide +kernel⟩

theorem test_witness_AccumulatorMemoryForms :
    AluOp.sbc.memForm (.indY 0xFF#8) = some (.sbcIndY 0xFF#8) ∧ State.reset.fullMemory := ⟨rfl, full_reset⟩

theorem test_witness_BitForms : bitForm (.dirX 0xFF#8) = some (.bitDirX 0xFF#8) ∧ State.reset.fullMemory := ⟨rfl, full_reset⟩

theorem test_witness_StoreForms :
    StoreOp.sta.form (.absX 0xFFFF#16) = some (.staAbsX 0xFFFF#16) ∧ StoreOp.stx.form (.dirY 0xFF#8) = some (.stxDirY 0xFF#8) ∧
      State.reset.fullMemory := ⟨rfl, rfl, full_reset⟩

/-- A 16-bit store and a 16-bit read-modify-write whose high byte lies in the next bank, each going on. -/
theorem test_witness_StoresTouchOnlyTheirBytes :
    let s : State := { State.reset with r := { Regs.reference with e := false, m := false } }
    (StoreOp.sta.form (.long 0x12FFFF#24) = some (.staLong 0x12FFFF#24) ∧ s.fullMemory ∧ StoreOp.sta.width s.r = .w16 ∧
      ∃ t, exec (.staLong 0x12FFFF#24) s = .next t) ∧
    (RmwOp.inc.memForm (.abs 0xFFFF#16) = some (.incAbs 0xFFFF#16) ∧ widthA s.r = .w16 ∧
      ∃ t, exec (.incAbs 0xFFFF#16) s = .next t) := by
  exact ⟨⟨rfl, Nat.le_refl _, rfl, _, rfl⟩, rfl, rfl, _, rfl⟩

theorem test_witness_ReadModifyWriteMemory :
    RmwOp.ror.memForm (.absX 0xFFFF#16) = some (.rorAbsX 0xFFFF#16) ∧ State.reset.fullMemory := ⟨rfl, full_reset⟩

theorem test_witness_IndexLoads :
    Idx.x.ldForm (.absY 0xFFFF#16) = some (.ldxAbsY 0xFFFF#16) ∧ Idx.y.ldForm (.dirX 0xFF#8) = some (.ldyDirX 0xFF#8) ∧
      State.reset.fullMemory := ⟨rfl, rfl, full_reset⟩

theorem test_witness_IndexComparesWithMemory :
    Idx.y.cpForm (.abs 0xFFFF#16) = some (.cpyAbs 0xFFFF#16) ∧ State.reset.fullMemory := ⟨rfl, full_reset⟩

/-- The native-mode clause has a state; the other clauses have no hypothesis. -/
theorem test_witness_ProcessorStatusByte : Regs.e { Regs.reference with e := false } = false := rfl

theorem test_witness_PushInstructions : pushForms ≠ [] ∧ State.reset.fullMemory := ⟨by simp [pushForms], full_reset⟩

/-- Both widths, with S at the foot of the page, each going on. -/
theorem test_witness_PushesTouchOnlyTheirBytes :
    let s : State := { State.reset with r := { Regs.reference with s := 0x0100#16 } }
    s.fullMemory ∧ widthA s.r = .w8 ∧ (∃ t, exec .pha s = .next t) ∧ ∃ t, exec .phd s = .next t := by
  exact ⟨Nat.le_refl _, rfl, ⟨_, rfl⟩, _, rfl⟩

theorem test_witness_PullInstructions : pullForms ≠ [] ∧ State.reset.fullMemory := ⟨by simp [pullForms], full_reset⟩

theorem test_witness_PushThenPullStatusRestoresFlags :
    State.reset.fullMemory ∧ State.reset.r.emulationLock = true := ⟨full_reset, by decide⟩

/-- S outside page 1 before, E = 1. -/
theorem test_witness_StackPageLock :
    let s : State := { State.reset with r := { Regs.reference with s := 0x1234#16 } }
    writesStack .pla = true ∧ ∃ t, exec .pla s = .next t ∧ t.r.e = true := by
  exact ⟨rfl, _, rfl, rfl⟩

theorem test_witness_JumpInstructions : State.reset.fullMemory := full_reset

theorem test_witness_JumpToSubroutine : State.reset.fullMemory := full_reset

theorem test_witness_ReturnInstructions : State.reset.fullMemory := full_reset

theorem test_witness_CallThenReturnComesBack :
    State.reset.fullMemory ∧ State.reset.r.emulationLock = true ∧
      Regs.emulationLock { Regs.reference with e := false, m := false, xf := false, s := 0x0000#16 } = true := by
  exact ⟨full_reset, by decide, by decide⟩

theorem test_witness_BranchInstructions : branchForms ≠ [] := by simp [branchForms]

theorem test_witness_FlagsHaveOnlyTheirWriters :
    isGuest .clc = true ∧ keepsN .clc = true ∧ keepsZ .clc = true ∧ writesV .clc = false ∧ writesC .nop = false ∧
      unpacksP .clc = false ∧ ∃ t, exec .clc State.reset = .next t := by
  exact ⟨rfl, rfl, rfl, rfl, rfl, rfl, _, rfl⟩

theorem test_witness_RegistersHaveOnlyTheirWriters :
    isGuest .inx = true ∧ writesStack .inx = false ∧ writesAccumulator .inx = false ∧ State.reset.r.m = true ∧
      State.reset.r.xf = true ∧ ∃ t, exec .inx State.reset = .next t := by
  exact ⟨rfl, rfl, rfl, rfl, rfl, _, rfl⟩

theorem test_witness_OnlyStoringInstructionsWriteMemory :
    isGuest .pla = true ∧ writesMemory .pla = false ∧ ∃ t, exec .pla State.reset = .next t := by
  exact ⟨rfl, rfl, _, rfl⟩

theorem test_witness_OnlyTransfersEndTheBlock :
    isGuest (.bra 0x80#8) = true ∧ (∃ t, exec (.bra 0x80#8) State.reset = .next t) ∧ ∃ t, exec .nop State.reset = .next t := by
  exact ⟨rfl, ⟨_, rfl⟩, _, rfl⟩

/-- At the end of the bank, where PC wraps. -/
theorem test_witness_FallThroughAdvancesPcByTheLength :
    let s : State := { State.reset with r := { Regs.reference with pc := 0xFFFF#16 } }
    isGuest (.ldaImm 0x0001#16) = true ∧ isTransfer (.ldaImm 0x0001#16) = false ∧
      ∃ t, exec (.ldaImm 0x0001#16) s = .next t := by
  exact ⟨rfl, rfl, _, rfl⟩

theorem test_witness_GuestInstructionsKeepTheBlockState :
    isGuest .php = true ∧ ∃ t, exec .php State.reset = .next t := ⟨rfl, _, rfl⟩

/-- A guest step and a node step, each from a state with the invariant. -/
theorem test_witness_StepKeepsInvariant :
    let g := codeState Regs.reference [] [0x48#8]
    let n := nodeState [value 8 1] (.irNot 0#16)
    (g.memoriesWf && g.valuesMasked && g.insideArena && n.memoriesWf && n.valuesMasked && n.insideArena) = true ∧
      leaves g { Regs.reference with s := 0x01FC#16, pc := 0xC001#16, cycle := 3#64 } [] false = true ∧
      gives n 8 0xFE = true := by
  decide +kernel

theorem test_witness_GuestStepKeepsEmulationLock :
    let s := codeState Regs.reference [] [0xFB#8]
    s.pendingNode = none ∧ s.r.emulationLock = true ∧
      leaves s { Regs.reference with e := false, c := true, pc := 0xC001#16, cycle := 2#64 } [] false = true := by
  exact ⟨rfl, by decide, by decide +kernel⟩

/-- A legal width and one that is none. -/
theorem test_witness_IrConstants : constWidthOk 24#8 = true ∧ constWidthOk 12#8 = false := by
  decide

/-- Operands at the widest: 64 bits, all ones. -/
theorem test_witness_IrArithmeticAndLogic :
    let s := nodeState [value 64 0xFFFFFFFFFFFFFFFF, value 8 0x05] (.irNot 0#16)
    let x : IrVal := { val := 0xFFFFFFFFFFFFFFFF#64, wid := 64 }
    s.vals[(0#16).toNat]? = some x ∧ s.vals[(1#16).toNat]? = some { val := 0x05#64, wid := 8 } ∧ x.masked = true := by
  exact ⟨rfl, rfl, by decide⟩

/-- An operand and two Const handles, at the boundary of each rule: a shift by the whole width. -/
theorem test_witness_IrShiftsAndFields :
    let s := nodeState [value 8 0x81, value 56 0x01, const 8 8, const 8 0] (.irNot 0#16)
    let x : IrVal := { val := 0x81#64, wid := 8 }
    let y : IrVal := { val := 0x01#64, wid := 56 }
    s.vals[(0#16).toNat]? = some x ∧ s.vals[(1#16).toNat]? = some y ∧ x.masked = true ∧ y.masked = true ∧
      s.constIs 2#16 8 ∧ s.constIs 3#16 0 := by
  exact ⟨rfl, rfl, by decide, by decide, ⟨8#8, 0#8, 8#32, 8, rfl, rfl, by decide⟩, 8#8, 0#8, 0#32, 8, rfl, rfl, by decide⟩

/-- Operands that differ and operands that agree; buses 0, 1 and 2, the first refused; predicates of 1 bit and of 2. -/
theorem test_witness_IrComparesSelectsAndChecks :
    let s := nodeState [value 1 0, value 16 5, value 8 6, value 8 5, const 8 0, const 8 1, const 8 2, value 2 1] (.irNot 0#16)
    (s.vals[(0#16).toNat]? = some { val := 0#64, wid := 1 } ∧ s.vals[(1#16).toNat]? = some { val := 5#64, wid := 16 } ∧
      s.vals[(2#16).toNat]? = some { val := 6#64, wid := 8 } ∧ (5#64 : BitVec 64) ≠ 6#64) ∧
    (s.vals[(3#16).toNat]? = some { val := 5#64, wid := 8 } ∧ s.vals[(7#16).toNat]? = some { val := 1#64, wid := 2 }) ∧
    s.constIs 4#16 0 ∧ s.constIs 5#16 1 ∧ s.constIs 6#16 2 := by
  exact ⟨⟨rfl, rfl, rfl, by decide⟩, ⟨rfl, rfl⟩, ⟨8#8, 0#8, 0#32, 8, rfl, rfl, by decide⟩,
    ⟨8#8, 0#8, 1#32, 8, rfl, rfl, by decide⟩, 8#8, 0#8, 2#32, 8, rfl, rfl, by decide⟩

/-- The memory context of each clause, slot 18 and slot 19, and full memory. -/
theorem test_witness_IrLoads :
    (nodeState (memState 1 0 ++ [value 24 0xFFFFFF]) (.irNot 0#16)).memStateIs 3#16 1 false ∧
      (nodeState (memState 0 1 ++ [value 8 18]) (.irNot 0#16)).memStateIs 3#16 0 true ∧
      readSlot Regs.reference 18 = some 0 ∧ 18 < 19 ∧
      (nodeState (memState 1 1 ++ [value 24 0xFFFFFF]) (.irNot 0#16)).memStateIs 3#16 1 true ∧
      (nodeState (memState 1 1 ++ [value 24 0xFFFFFF]) (.irNot 0#16)).fullMemory := by
  refine ⟨?_, ?_, rfl, by decide, ?_, Nat.le_refl _⟩ <;> exact ⟨0#16, 1#16, 2#16, _, _, _, rfl, rfl, rfl, rfl, rfl, rfl⟩

theorem test_witness_IrStores :
    (nodeState (memState 1 0 ++ [value 24 0xFFFFFF, value 8 1]) (.irNot 0#16)).memStateIs 3#16 1 false ∧
      (nodeState (memState 0 1 ++ [value 8 18, value 8 1]) (.irNot 0#16)).memStateIs 3#16 0 true ∧
      (writeSlot Regs.reference 18 1).isSome = true ∧ 18 < 19 ∧
      (nodeState (memState 1 1 ++ [value 24 0xFFFFFF, value 8 1]) (.irNot 0#16)).memStateIs 3#16 1 true ∧
      (nodeState (memState 1 1 ++ [value 24 0xFFFFFF, value 8 1]) (.irNot 0#16)).fullMemory := by
  refine ⟨?_, ?_, rfl, by decide, ?_, Nat.le_refl _⟩ <;> exact ⟨0#16, 1#16, 2#16, _, _, _, rfl, rfl, rfl, rfl, rfl, rfl⟩

/-- Eight bytes across the top of the address space; the byte below them is none of them. -/
theorem test_witness_WideAccessesRoundTrip :
    let s := nodeState (memState 1 1 ++ [value 24 0xFFFFFC, value 64 0x0102030405060708]) (.irNot 0#16)
    ((8, Instr.irStore64), (8, Instr.irLoad64)) ∈ storeForm.zip loadForm ∧ s.fullMemory ∧ s.memStateIs 3#16 1 true ∧
      s.vals[(4#16).toNat]? = some { val := 0xFFFFFC#64, wid := 24 } ∧
      s.vals[(5#16).toNat]? = some { val := 0x0102030405060708#64, wid := 64 } ∧
      ∀ k, k < 8 → (0xFFFFFB#24 : Addr) ≠ 0xFFFFFC#24 + BitVec.ofNat 24 k := by
  exact ⟨by simp [storeForm, loadForm], Nat.le_refl _, ⟨0#16, 1#16, 2#16, _, _, _, rfl, rfl, rfl, rfl, rfl, rfl⟩, rfl, rfl,
    by decide⟩

/-- The last slot and the first ordinal that is none. -/
theorem test_witness_RegisterBusSlots : 18 ≤ 18 ∧ 17 ≠ 18 ∧ 18 < 19 := by
  decide

theorem test_witness_IrStateSpace :
    let s := nodeState [value 64 0xFFFFFFFFFFFFFFFF, value 16 0xBEEF, const 8 8] (.irNot 0#16)
    s.vals[(0#16).toNat]? = some { val := 0xFFFFFFFFFFFFFFFF#64, wid := 64 } ∧
      s.vals[(1#16).toNat]? = some { val := 0xBEEF#64, wid := 16 } ∧ s.constIs 2#16 8 ∧ 8 ≤ 8 := by
  exact ⟨rfl, rfl, ⟨8#8, 0#8, 8#32, 8, rfl, rfl, by decide⟩, by decide⟩

/-- The node's own index: the first handle that is too high. -/
theorem test_witness_DanglingHandleIsStructuralError :
    2#16 ∈ irHandles (.irAdd 0#16 2#16) ∧
      (nodeState [value 8 1, value 8 2] (.irAdd 0#16 2#16)).vals[(2#16).toNat]? = none := by
  exact ⟨by decide, rfl⟩

theorem test_witness_IrNodeFrame :
    isGuest (.irNot 0#16) = false ∧ ∃ t, exec (.irNot 0#16) (nodeState [value 8 1] (.irNot 0#16)) = .next t := ⟨rfl, _, rfl⟩

theorem test_witness_ConstantsAreShared :
    (match constV 16 0x1234 emptyBuild with
      | .ok h b => h.h == 0#16 && b.em.memo == [((0x1234, 16), 0#16)]
      | .error _ _ => false) = true := by
  decide +kernel

/-- An empty arena takes a constant, and refuses a node that names handle 0. -/
theorem test_witness_ArenaIsAppendOnlyAndAcyclic :
    (∃ h b, append (.irConst 8#8 0#8 0#32) emptyBuild = .ok h b) ∧
      emptyBuild.arena.length < emptyBuild.cfg.arenaCap ∧ emptyBuild.arena.length < 65535 ∧
      ∃ a ∈ irHandles (.irNot 0#16), emptyBuild.arena.length ≤ a.toNat := by
  exact ⟨⟨_, _, rfl⟩, by decide, by decide, 0#16, by decide, Nat.zero_le _⟩

/-- Memory ends below the stack's next byte: 0x01FD of 0x01FD for a push, 0x01FE of 0x01FE for a pull. -/
theorem test_witness_StackPointerAndNodeAccessesOutOfRangeFault :
    let s (n : Nat) : State := { State.reset with cfg := { Config.default with memBytes := n } }
    let push (k : Nat) := (mkAddr 0x00#8 (pushedS true 0x01FD#16 k)).toNat
    let pull (k : Nat) := (mkAddr 0x00#8 (pulledS true 0x01FD#16 (k + 1))).toNat
    ((s 0x1FD).cfg.memBytes ≤ push 0 ∧ (s 0x1FE).cfg.memBytes ≤ pull 0) ∧
    (pull 0 < (s 0x1FF).cfg.memBytes ∧ (s 0x1FF).cfg.memBytes ≤ pull 1) ∧
    (pushForms ≠ [] ∧ pullForms ≠ []) ∧ (s 0).r.e = true := by
  exact ⟨⟨by decide, by decide⟩, ⟨by decide, by decide⟩, ⟨by simp [pushForms], by simp [pullForms]⟩, rfl⟩

/-- The second byte out of range where the stack wraps: down to 0x01FF for JSR at S = 0x0100 and for PHD, and in native mode
up to 0x0100 for the third and fourth byte of RTI. -/
theorem test_witness_StackPointerAndNodeAccessesOutOfRangeFault_later :
    let n : State := { State.reset with
      cfg := { Config.default with memBytes := 0x100 }, r := { Regs.reference with e := false, m := false, s := 0x00FC#16 } }
    let u : State := { State.reset with
      cfg := { Config.default with memBytes := 0x101 }, r := { Regs.reference with s := 0x0100#16 } }
    let push (k : Nat) := (mkAddr 0x00#8 (pushedS u.r.e u.r.s k)).toNat
    let pull (k : Nat) := (mkAddr 0x00#8 (pulledS n.r.e n.r.s (k + 1))).toNat
    ((∀ j, j < 1 → push j < u.cfg.memBytes) ∧ u.cfg.memBytes ≤ push 1) ∧
    ((∀ j, j < 3 → pull j < n.cfg.memBytes) ∧ n.cfg.memBytes ≤ pull 3 ∧ 3 < (if n.r.e then 3 else 4)) := by
  exact ⟨⟨by decide, by decide⟩, by decide, by decide, by decide⟩

/-- JMP (a) whose second pointer byte is the first address out of range, and Load64 and Store64 whose fifth byte is. -/
theorem test_witness_StackPointerAndNodeAccessesOutOfRangeFault_nodes :
    let s := small (nodeState (memState 1 1 ++ [value 24 0x00FFFC, value 64 0x0102030405060708]) (.irNot 0#16))
    let j : State := { State.reset with cfg := { Config.default with memBytes := 0x1235 } }
    j.firstOut [(0, mkAddr 0x00#8 0x1234#16), (1, mkAddr 0x00#8 (wrapAdd 0x1234#16 1#16 j.r.e))] = some (1, 0x001235#24) ∧
    (s.memStateIs 3#16 1 true ∧ s.vals[(4#16).toNat]? = some { val := 0x00FFFC#64, wid := 24 } ∧
      s.vals[(5#16).toNat]? = some { val := 0x0102030405060708#64, wid := 64 } ∧
      (∀ k, k < 4 → ((0x00FFFC#24 : Addr) + BitVec.ofNat 24 k).toNat < s.cfg.memBytes) ∧
      s.cfg.memBytes ≤ ((0x00FFFC#24 : Addr) + BitVec.ofNat 24 4).toNat) := by
  exact ⟨by decide +kernel, ⟨0#16, 1#16, 2#16, _, _, _, rfl, rfl, rfl, rfl, rfl, rfl⟩, rfl, rfl, by decide, by decide⟩

end Sys2Proof.Tests
end

section
/-! The scope of a step (00_scope.md): when no IR node is pending, a step is the fetch, the decoder and `exec` in that order; what
a guest instruction leaves alone; and what appending a node to the arena does. -/

namespace Sys2Proof.Machine

/-! ### A guest step by the outcome of its fetch (R223) -/

/-- A fetch that faults ends the step with its fault (R505). -/
theorem step_of_fetchInstr_error {s t : State} {f : Fault} (hp : s.pendingNode = none)
    (hf : fetchInstr s = .error f t) : step s = .fault f := by
  simp only [step, hp, stepGuest, hf]

theorem step_of_fetchInstr_ok {s t : State} {bytes : List Byte} {i : Instr} (hp : s.pendingNode = none)
    (hf : fetchInstr s = .ok bytes t) (hd : decode s.ctx (.guest bytes) = .ok i) : step s = exec i s := by
  simp only [step, hp, stepGuest, hf, hd]

/-- The lift-time read is the first access of a fetch, and nothing has changed when it faults. -/
theorem fetchInstr_opcode_out {s : State} (h : s.cfg.memBytes ≤ (mkAddr s.r.pbr s.r.pc).toNat) :
    fetchInstr s = .error (.outOfRangeMemory (mkAddr s.r.pbr s.r.pc) .read s) s := by
  simp [fetchInstr, liftRead, Nat.not_lt.mpr h]

/-! ### Appending a node (R12, R140 to R142) -/

/-- All that a successful `append` says: room in the arena, older arguments only, one encoded node added, and the handle is its
index. -/
theorem append_ok {i : Instr} {b b' : Build} {h : Handle} (happ : append i b = .ok h b') :
    b.arena.length < b.cfg.arenaCap ∧ b.arena.length < 65535 ∧ (∀ a ∈ irHandles i, a.toNat < b.arena.length) ∧
      h = BitVec.ofNat 16 b.arena.length ∧
      ∃ w, encode launchCtx i = .node w ∧ b' = { b with arena := b.arena ++ [w] } := by
  simp only [append] at happ
  split at happ
  · cases happ
  next hroom =>
    split at happ
    next hargs =>
      split at happ
      next w hw =>
        cases happ
        simp only [Bool.or_eq_true, decide_eq_true_eq, not_or, Nat.not_le] at hroom
        exact ⟨hroom.1, hroom.2, by simpa using hargs, rfl, w, hw, rfl⟩
      · cases happ
    · cases happ

/-- With room in the arena, an argument that names no older node is refused. -/
theorem append_badHandle {i : Instr} {b : Build} {a : Handle} (hcap : b.arena.length < b.cfg.arenaCap)
    (hlen : b.arena.length < 65535) (ha : a ∈ irHandles i) (hforward : b.arena.length ≤ a.toNat) :
    append i b = .error .badHandle b := by
  have hargs : ¬ (irHandles i).all (fun h => decide (h.toNat < b.arena.length)) = true := by
    rw [List.all_eq_true]
    exact fun hall => Nat.not_lt.mpr hforward (of_decide_eq_true (hall a ha))
  simp [append, Nat.not_le.mpr hcap, Nat.not_le.mpr hlen, hargs]

/-! ### The obligations -/

/-- Settles O8: the fetch faults at the opcode's lift-time read or at the first operand byte out of range, and the step with it. -/
theorem opcodeReadOutOfRangeFaultsFirst : Obligations.OpcodeReadOutOfRangeFaultsFirst := by
  intro s hp
  refine ⟨fun hop => ?_, fun k hpos hk hin hout => ?_⟩
  · exact step_of_fetchInstr_error hp (fetchInstr_opcode_out hop)
  · exact step_of_fetchInstr_error hp (fetchInstr_out hpos hk hin hout)

/-- Settles O43: a next state differs from the one before in registers, memory and `ending` only. -/
theorem guestInstructionsKeepTheBlockState : Obligations.GuestInstructionsKeepTheBlockState := by
  intro i s t hi h
  obtain ⟨p, -, rfl⟩ := exec_guest_next hi h
  exact ⟨rfl, rfl, rfl, rfl, rfl⟩

/-- Settles O59: below the bound 65535 the new handle, 16 bits wide, is the arena's old length without wrapping. -/
theorem arenaIsAppendOnlyAndAcyclic : Obligations.ArenaIsAppendOnlyAndAcyclic := by
  refine ⟨fun i b b' h happ => ?_, fun i b hcap hlen ⟨a, ha, hforward⟩ => append_badHandle hcap hlen ha hforward⟩
  obtain ⟨hcap, hlen, hargs, rfl, hnode⟩ := append_ok happ
  have hindex : (BitVec.ofNat 16 b.arena.length).toNat = b.arena.length := by
    rw [BitVec.toNat_ofNat]
    omega
  rw [hindex]
  exact ⟨hnode, rfl, hcap, hargs⟩

/-- Settles O5: bytes in range are fetched as they stand, so the step runs what they decode to. -/
theorem stepRunsDecodedInstruction : Obligations.StepRunsDecodedInstruction := by
  intro s i hp n hin hd
  obtain ⟨t, hf⟩ := fetchInstr_inRange s hin
  exact step_of_fetchInstr_ok hp hf hd

end Sys2Proof.Machine
end

section
/-! The footprint of a guest instruction: which parts of the register file it writes when it goes on (10_state.md R36 to R44). One
table of it by pattern, proved once against what the patterns do; the tables of R36 to R44 are then compared with it. -/

namespace Sys2Proof.Machine

/-! ### Fields -/

/-- The parts of the register file that R36 to R44 give writers. The high bytes of X and Y stand for themselves, since R37 is
about them alone. -/
inductive Field where
  | a | b | d | xHigh | yHigh | s | pc | pbr | dbr | n | v | m | xf | df | i | z | c | e
  deriving DecidableEq

/-- The register file `q` holds in a field what `r` holds there. -/
def Field.Same : Field → Regs → Regs → Prop
  | .a, r, q => q.a = r.a
  | .b, r, q => q.b = r.b
  | .d, r, q => q.d = r.d
  | .xHigh, r, q => hi8 q.x = hi8 r.x
  | .yHigh, r, q => hi8 q.y = hi8 r.y
  | .s, r, q => q.s = r.s
  | .pc, r, q => q.pc = r.pc
  | .pbr, r, q => q.pbr = r.pbr
  | .dbr, r, q => q.dbr = r.dbr
  | .n, r, q => q.n = r.n
  | .v, r, q => q.v = r.v
  | .m, r, q => q.m = r.m
  | .xf, r, q => q.xf = r.xf
  | .df, r, q => q.df = r.df
  | .i, r, q => q.i = r.i
  | .z, r, q => q.z = r.z
  | .c, r, q => q.c = r.c
  | .e, r, q => q.e = r.e

theorem Field.Same.trans {x : Field} {r q u : Regs} (h : x.Same r q) (h' : x.Same q u) : x.Same r u := by
  cases x <;> exact Eq.trans h' h

/-! ### The table

Each definition tells whether a field is written. What depends on the state is whether B is written (M clear, R41), the high byte
of an index register (X_flag clear, R37), M and X_flag themselves (E clear, R282) and PBR by RTI (E clear, R475). A condition
stands behind the field it is about, so that the other fields compute without it. -/

def writesNZ : Field → Bool
  | .n | .z => true
  | _ => false

def writesA (m : Bool) : Field → Bool
  | .a => true
  | .b => !m
  | _ => false

def Idx.writes (xf : Bool) : Idx → Field → Bool
  | .x, .xHigh => !xf
  | .y, .yHigh => !xf
  | _, _ => false

/-- The flags that P unpacks to. -/
def writesP (e : Bool) : Field → Bool
  | .n | .v | .df | .i | .z | .c => true
  | .m | .xf => !e
  | _ => false

def AluOp.writes (m : Bool) (op : AluOp) (x : Field) : Bool :=
  match op with
  | .ora | .and | .eor | .lda => writesNZ x || writesA m x
  | .adc | .sbc => writesNZ x || x == .v || x == .c || writesA m x
  | .cmp => writesNZ x || x == .c

def RmwOp.writes (op : RmwOp) (x : Field) : Bool :=
  match op with
  | .asl | .rol | .lsr | .ror => writesNZ x || x == .c
  | .inc | .dec => writesNZ x

def PullOp.writes (e xf : Bool) (op : PullOp) (x : Field) : Bool :=
  match op with
  | .x => writesNZ x || Idx.writes xf .x x
  | .y => writesNZ x || Idx.writes xf .y x
  | .p => writesP e x
  | .d => x == .d || writesNZ x
  | .b => x == .dbr || writesNZ x

/-- The fields a pattern writes beside the advance over its own bytes; an implied pattern does not tell, and an unimplemented
opcode never goes on. -/
def Pattern.writes (e m xf : Bool) (p : Pattern) (x : Field) : Bool :=
  match p with
  | .unimplemented _ | .store _ _ => false
  | .aluImm op _ | .aluMem op _ => op.writes m x
  | .rmwAcc op => op.writes x || writesA m x
  | .rmwMem op _ => op.writes x
  | .bitImm _ => x == .z
  | .bitMem _ => writesNZ x || x == .v
  | .ldIdxImm i _ | .ldIdxMem i _ | .stepIdx i _ => writesNZ x || i.writes xf x
  | .cpIdxImm _ _ | .cpIdxMem _ _ => writesNZ x || x == .c
  | .implied _ _ => true
  | .push _ => x == .s
  | .pull op => x == .s || op.writes e xf x
  | .pla => x == .s || writesNZ x || writesA m x
  | .jmpAbs _ | .jmpInd _ | .branch _ _ => x == .pc
  | .jmpLong _ => x == .pc || x == .pbr
  | .jsr _ | .rts => x == .pc || x == .s
  | .rti => x == .pc || x == .s || (x == .pbr && !e) || writesP e x

/-- The fields an instruction writes: the implied ones one by one, every other by its pattern. -/
def instrWrites (e m xf : Bool) (i : Instr) (x : Field) : Bool :=
  match i with
  | .nop => false
  | .clc | .sec => x == .c
  | .cli | .sei => x == .i
  | .cld | .sed => x == .df
  | .clv => x == .v
  | .xce => x == .c || x == .e || x == .m || x == .xf || x == .s
  | .xba | .tsc | .tdc => writesNZ x || writesA false x
  | .tcs | .txs => x == .s
  | .tcd => x == .d || writesNZ x
  | .txa | .tya => writesNZ x || writesA m x
  | .tax | .tsx | .tyx => writesNZ x || Idx.writes xf .x x
  | .tay | .txy => writesNZ x || Idx.writes xf .y x
  | _ =>
    match patternOf i with
    | some p => p.writes e m xf x
    | none => false

/-! ### What the shared results leave alone

Field by field: a field that no condition is about is either left alone, which computes, or in the table, which the hypothesis
denies. -/

/-- A result leaves B when M is set (R284). -/
theorem resultA_b {r : Regs} (hm : (!r.m) = false) (n : Nat) : (resultA (widthA r) n r).b = r.b := by
  have hw : widthA r = .w8 := by simp [widthA, widthOf, show r.m = true by simpa using hm]
  rw [hw]
  rfl

theorem result_same {x : Field} {r : Regs} (h : (writesNZ x || writesA r.m x) = false) (n : Nat) :
    x.Same r (resultNZ (widthA r) n (resultA (widthA r) n r)) := by
  cases x with
  | b => exact resultA_b h n
  | _ => first | rfl | cases h

/-- A byte put into the low half of an index register leaves its high byte (R286). -/
theorem hi8_kept (old : Word16) (n : Nat) : hi8 (BitVec.ofNat 16 (old.toNat / 256 * 256 + n % 256)) = hi8 old := by
  have hn : (BitVec.ofNat 16 n).toNat % 256 = n % 256 := by
    rw [BitVec.toNat_ofNat]
    omega
  rw [← hn, ← keptIdx, hi8_cat16]

theorem resultIdx_high {i : Idx} {r : Regs} (hxf : (!r.xf) = false) (n : Nat) :
    hi8 (i.raw (resultIdx i (widthX r) n r)) = hi8 (i.raw r) := by
  have hw : widthX r = .w8 := by simp [widthX, widthOf, show r.xf = true by simpa using hxf]
  rw [hw]
  cases i <;> exact hi8_kept _ n

theorem resultIdx_same {x : Field} {i : Idx} {r : Regs} (h : (writesNZ x || i.writes r.xf x) = false) (n : Nat) :
    x.Same r (resultNZ (widthX r) n (resultIdx i (widthX r) n r)) := by
  cases i with
  | x =>
    cases x with
    | xHigh => exact resultIdx_high (i := .x) h n
    | _ => first | rfl | cases h
  | y =>
    cases x with
    | yHigh => exact resultIdx_high (i := .y) h n
    | _ => first | rfl | cases h

theorem unpackFlags_same {x : Field} {r : Regs} (h : writesP r.e x = false) (p : Byte) : x.Same r (unpackFlags p r) := by
  have hwidths (he : (!r.e) = false) : (unpackFlags p r).m = r.m ∧ (unpackFlags p r).xf = r.xf := by
    simp [show r.e = true by simpa using he]
  cases x with
  | m => exact (hwidths h).1
  | xf => exact (hwidths h).2
  | _ => first | rfl | cases h

theorem AluOp.effect_same {x : Field} {op : AluOp} {r : Regs} (h : op.writes r.m x = false) (v : Word16) :
    x.Same r (op.effect v r) := by
  cases op with
  | ora | and | eor | lda => exact result_same h _
  | cmp => cases x <;> first | rfl | cases h
  | adc | sbc =>
    cases x with
    | b => exact resultA_b h _
    | _ => first | rfl | cases h

theorem PullOp.effect_same {x : Field} {op : PullOp} {r : Regs} (h : op.writes r.e r.xf x = false) (v : Word16) :
    x.Same r (op.effect v r) := by
  cases op with
  | x | y =>
    simp only [PullOp.effect, setIdx_eq]
    exact resultIdx_same h _
  | p => exact unpackFlags_same h _
  | d | b => cases x <;> first | rfl | cases h

theorem branchEffect_same {x : Field} (h : (x == .pc) = false) (taken : Bool) (d : Byte) (r : Regs) (n k : Nat) :
    x.Same (r.passed n k) (branchEffect taken d r) := by
  cases taken <;> cases x <;> first | rfl | cases h

/-! ### The table holds -/

/-- A pattern that goes on leaves the fields it does not write as they are once its bytes are passed. -/
theorem Pattern.run_same {p : Pattern} {s t : State} {x : Field} (hrun : p.run s = .next t)
    (h : p.writes s.r.e s.r.m s.r.xf x = false) : x.Same (s.r.passed (p.bytes s) (p.cycles s)) t.r := by
  rw [Pattern.run_next hrun]
  cases p with
  | unimplemented _ => exact nomatch hrun
  | implied _ _ => cases h
  | aluImm op _ | aluMem op _ => exact AluOp.effect_same (r := s.r.passed _ _) h _
  | ldIdxImm i _ | ldIdxMem i _ | stepIdx i _ => exact resultIdx_same (r := s.r.passed _ _) h _
  | branch _ _ => exact branchEffect_same h _ _ _ _ _
  | store _ _ | bitImm _ | bitMem _ | cpIdxImm _ _ | cpIdxMem _ _ | push _ | jmpAbs _ | jmpInd _ | jmpLong _ | jsr _
  | rts => cases x <;> first | rfl | cases h
  | rmwMem op _ => cases op <;> cases x <;> first | rfl | cases h
  | rmwAcc op =>
    cases x with
    | b => cases op <;> exact resultA_b (r := s.r.passed _ _) h _
    | _ => cases op <;> first | rfl | cases h
  | pull op =>
    rw [Pattern.writes, Bool.or_eq_false_iff] at h
    obtain ⟨hs, hop⟩ := h
    refine .trans ?_ (PullOp.effect_same (r := { s.r.passed _ _ with s := _ }) hop _)
    cases x <;> first | rfl | cases hs
  | pla =>
    cases x with
    | b => exact resultA_b (r := s.r.passed _ _) h _
    | _ => first | rfl | cases h
  | rti =>
    have hunpack := fun hx => unpackFlags_same (x := x) (r := s.r) hx (pulledByte s.mem s.r.e s.r.s 1)
    cases x with
    | m | xf => exact hunpack h
    | pbr =>
      have he : s.r.e = true := by simpa [Pattern.writes, writesP] using h
      simp [Field.Same, Pattern.regs, he]
    | _ => first | rfl | cases h

theorem implied_same {i : Instr} {k : Nat} {f : Regs → Regs} {x : Field} {r : Regs}
    (hp : patternOf i = some (.implied k f)) (h : instrWrites r.e r.m r.xf i x = false) : x.Same r (f r) := by
  cases i <;> cases hp
  case txa | tya =>
    simp only [storeResultA_eq]
    exact result_same h _
  case tax | tsx | tyx | tay | txy =>
    simp only [setIdx_eq]
    exact resultIdx_same h _
  all_goals cases x <;> first | rfl | cases h

theorem instrWrites_of_patternOf {i : Instr} {p : Pattern} (hp : patternOf i = some p) (hne : ∀ k f, p ≠ .implied k f)
    (e m xf : Bool) (x : Field) : instrWrites e m xf i x = p.writes e m xf x := by
  cases i <;> first | (cases hp; rfl) | (cases hp; exact absurd rfl (hne _ _)) | cases hp

/-- A guest instruction that goes on leaves every field it does not write as it is once the instruction's bytes are passed. -/
theorem exec_same {i : Instr} {s t : State} (hi : isGuest i = true) (h : exec i s = .next t) :
    ∃ p, patternOf i = some p ∧ ∀ x, instrWrites s.r.e s.r.m s.r.xf i x = false →
      x.Same (s.r.passed (p.bytes s) (p.cycles s)) t.r := by
  obtain ⟨p, hp⟩ := patternOf_isGuest hi
  have hrun : p.run s = .next t := (exec_patternOf hp s).symm.trans h
  refine ⟨p, hp, fun x hx => ?_⟩
  cases p with
  | implied k f =>
    rw [Pattern.run_next hrun]
    exact implied_same (r := s.r.passed _ _) hp hx
  | _ =>
    rw [instrWrites_of_patternOf hp fun _ _ => nofun] at hx
    exact Pattern.run_same hrun hx

/-! ### The tables of R36 to R44 read off the footprint

Each is a comparison of two finite tables, row by row. -/

section Tables

variable (e m xf : Bool) (i : Instr)

theorem instrWrites_n : (keepsN i && instrWrites e m xf i .n) = false := by cases i <;> rfl
theorem instrWrites_z : (keepsZ i && instrWrites e m xf i .z) = false := by cases i <;> rfl
theorem instrWrites_v : instrWrites e m xf i .v = writesV i := by cases i <;> rfl
theorem instrWrites_c : instrWrites e m xf i .c = writesC i := by cases i <;> rfl
theorem instrWrites_df : instrWrites e m xf i .df = (i == .cld || i == .sed || unpacksP i) := by cases i <;> rfl
theorem instrWrites_i : instrWrites e m xf i .i = (i == .cli || i == .sei || unpacksP i) := by cases i <;> rfl
theorem instrWrites_m : instrWrites e m xf i .m = (i == .xce || (unpacksP i && !e)) := by cases i <;> rfl
theorem instrWrites_xf : instrWrites e m xf i .xf = (i == .xce || (unpacksP i && !e)) := by cases i <;> rfl
theorem instrWrites_e : instrWrites e m xf i .e = (i == .xce) := by cases i <;> rfl
theorem instrWrites_s : instrWrites e m xf i .s = writesStack i := by cases i <;> rfl
theorem instrWrites_d : instrWrites e m xf i .d = (i == .tcd || i == .pld) := by cases i <;> rfl
theorem instrWrites_dbr : instrWrites e m xf i .dbr = (i == .plb) := by cases i <;> rfl
theorem instrWrites_pc : instrWrites e m xf i .pc = isTransfer i := by cases i <;> rfl
theorem instrWrites_a : instrWrites e m xf i .a = writesAccumulator i := by cases i <;> rfl
theorem instrWrites_b : (!writesAccumulator i && instrWrites e m xf i .b) = false := by cases i <;> rfl
theorem instrWrites_b_narrow : instrWrites e true xf i .b = (i == .xba || i == .tsc || i == .tdc) := by cases i <;> rfl
theorem instrWrites_xHigh_narrow : instrWrites e m true i .xHigh = false := by cases i <;> rfl
theorem instrWrites_yHigh_narrow : instrWrites e m true i .yHigh = false := by cases i <;> rfl

theorem instrWrites_pbr (hjmp : ∀ a, i ≠ .jmpLong a) : instrWrites e m xf i .pbr = (i == .rti && !e) := by
  cases i with
  | jmpLong a => exact absurd rfl (hjmp a)
  | rti => cases e <;> rfl
  | _ => rfl

end Tables

/-- The bytes a pattern passes are those the encoder writes (R107). -/
theorem guestLength_of_patternOf {i : Instr} {p : Pattern} (hp : patternOf i = some p) (s : State) :
    guestLength s.ctx i = p.bytes s := by
  have himm (narrow : Bool) (v : Word16) : (bytesImm narrow v).length + 1 = immLength narrow := by cases narrow <;> rfl
  have hsr (sr : SrOffset) (off : Word16) : (bytesSr sr off).length + 1 = 1 + sr.bytes := by cases sr <;> rfl
  cases i <;> cases hp <;> first | rfl | exact himm _ _ | exact hsr _ _

end Sys2Proof.Machine
end

section
/-! The stack page, the status byte and the register bus: what the statements about them need, each said once. -/

namespace Sys2Proof.Machine

/-! ### S in page 1 (R287, R288, R414) -/

/-- The launch premise as an implication (R60). -/
theorem emulationLock_iff {r : Regs} :
    r.emulationLock = true ↔ (r.e = true → r.m = true ∧ r.xf = true ∧ hi8 r.s = 0x01#8) := by
  cases he : r.e <;> simp [Regs.emulationLock, he, and_assoc]

theorem hi8_stackLock {e : Bool} (he : e = true) (v : Word16) : hi8 (stackLock e v) = 0x01#8 := by
  rw [he, stackLock, if_pos rfl, hi8_cat16]

theorem pushedS_succ_locked (e : Bool) (sp : Word16) (k : Nat) : ∃ v, pushedS e sp (k + 1) = stackLock e v := by
  induction k generalizing sp with
  | zero => exact ⟨_, rfl⟩
  | succ k ih => exact ih _

theorem pulledS_succ_locked (e : Bool) (sp : Word16) (k : Nat) : ∃ v, pulledS e sp (k + 1) = stackLock e v := by
  induction k generalizing sp with
  | zero => exact ⟨_, rfl⟩
  | succ k ih => exact ih _

theorem pushedS_bytes_locked (e : Bool) (sp : Word16) (w : Width) : ∃ v, pushedS e sp w.bytes = stackLock e v := by
  cases w <;> exact pushedS_succ_locked _ _ _

theorem pulledS_bytes_locked (e : Bool) (sp : Word16) (w : Width) : ∃ v, pulledS e sp w.bytes = stackLock e v := by
  cases w <;> exact pulledS_succ_locked _ _ _

theorem PullOp.effect_s (op : PullOp) (v : Word16) (r : Regs) : (op.effect v r).s = r.s :=
  PullOp.effect_same (x := .s) (by cases op <;> rfl) v

theorem PullOp.effect_e (op : PullOp) (v : Word16) (r : Regs) : (op.effect v r).e = r.e :=
  PullOp.effect_same (x := .e) (by cases op <;> rfl) v

/-- Every writer of S leaves it locked under the E it leaves. -/
theorem regs_writesStack_locked {i : Instr} {p : Pattern} (hw : writesStack i = true) (hp : patternOf i = some p) (s : State) :
    ∃ v, (p.regs s).s = stackLock (p.regs s).e v := by
  cases i <;> cases hw <;> cases hp
  case txs | tcs | xce => exact ⟨_, rfl⟩
  case pha | phx | phy | php | phd | phk | phb => exact pushedS_bytes_locked _ _ _
  case plx | ply | plp | pld | plb =>
    simp only [Pattern.regs, PullOp.effect_s, PullOp.effect_e]
    exact pulledS_bytes_locked _ _ _
  case pla => exact pulledS_bytes_locked _ _ _
  case jsrAbs => exact pushedS_succ_locked _ _ 1
  case rts => exact pulledS_succ_locked _ _ 1
  case rti =>
    have hS : (Pattern.rti.regs s).s = pulledS s.r.e s.r.s (if s.r.e then 3 else 4) := rfl
    rw [hS]
    split
    · exact pulledS_succ_locked _ _ 2
    · exact pulledS_succ_locked _ _ 3

theorem isGuest_of_writesStack {i : Instr} (hw : writesStack i = true) : isGuest i = true := by
  cases i <;> first | rfl | cases hw

/-- After any stack instruction that goes on with E set, S lies in page 1. -/
theorem exec_writesStack_page {i : Instr} {s t : State} (hw : writesStack i = true) (h : exec i s = .next t)
    (he : t.r.e = true) : hi8 t.r.s = 0x01#8 := by
  obtain ⟨p, hp, rfl⟩ := exec_guest_next (isGuest_of_writesStack hw) h
  obtain ⟨v, hv⟩ := regs_writesStack_locked hw hp s
  exact (congrArg hi8 hv).trans (hi8_stackLock he v)

/-- A push and then a pull bring S back to where it was, if it was in page 1 when E is set (R288). -/
theorem stackLock_sub_add {e : Bool} {sp : Word16} (h : e = true → hi8 sp = 0x01#8) :
    stackLock e (stackLock e (sp - 1#16) + 1#16) = sp := by
  cases e with
  | false => exact BitVec.sub_add_cancel sp 1#16
  | true =>
    have hpage : sp.toNat / 256 = 1 := by
      rw [← hi8_toNat, h rfl]
      rfl
    apply BitVec.eq_of_toNat_eq
    simp only [stackLock_eq, if_true, BitVec.toNat_ofNat, BitVec.toNat_add, BitVec.toNat_sub]
    omega

/-! ### The status byte (R281, R282) -/

theorem getLsbD_packFlags (r : Regs) :
    (packFlags r).getLsbD 7 = r.n ∧ (packFlags r).getLsbD 6 = r.v ∧ (packFlags r).getLsbD 5 = (r.e || r.m) ∧
    (packFlags r).getLsbD 4 = (r.e || r.xf) ∧ (packFlags r).getLsbD 3 = r.df ∧ (packFlags r).getLsbD 2 = r.i ∧
    (packFlags r).getLsbD 1 = r.z ∧ (packFlags r).getLsbD 0 = r.c := by
  unfold packFlags
  generalize (r.e || r.m) = m, (r.e || r.xf) = xf
  have hflag (f : Bool) (k : Nat) (h : k = bit f) : decide (k = 1) = f := by cases f <;> simp [h, bit]
  have hn := bit_le_one r.n
  have hv := bit_le_one r.v
  have hm := bit_le_one m
  have hxf := bit_le_one xf
  have hdf := bit_le_one r.df
  have hi := bit_le_one r.i
  have hz := bit_le_one r.z
  have hc := bit_le_one r.c
  refine ⟨?_, ?_, ?_, ?_, ?_, ?_, ?_, ?_⟩ <;> rw [BitVec.getLsbD_ofNat, bit_of_num]
  all_goals
    refine hflag _ _ ?_
    omega

/-- Unpacking what was packed changes no flag: M and X_flag, packed as 1 when E is set, are not unpacked then. -/
theorem unpackFlags_packFlags (r : Regs) : unpackFlags (packFlags r) r = r := by
  obtain ⟨hn, hv, hm, hx, hd, hi, hz, hc⟩ := getLsbD_packFlags r
  have hwidth (f : Bool) : (if r.e then f else r.e || f) = f := by cases r.e <;> simp
  unfold unpackFlags
  rw [hn, hv, hm, hx, hd, hi, hz, hc, hwidth, hwidth]

/-! ### The register bus (R30, R185, R186) -/

/-- The widths of the 19 slots. -/
def slotWidths : List Nat := [8, 8, 16, 16, 16, 16, 16, 8, 8, 1, 1, 1, 1, 1, 1, 1, 1, 1, 64]

theorem bit_bit0 (v : Nat) : bit (bit0 v) = v % 2 := by
  unfold bit bit0
  rcases Nat.mod_two_eq_zero_or_one v with h | h <;> rw [h] <;> rfl

/-- A slot below 19 is written, and reads back the value masked to its width. -/
theorem readSlot_writeSlot_same (r : Regs) (v : Nat) {k : Nat} (hk : k ≤ 18) :
    ∃ q, writeSlot r k v = some q ∧ readSlot q k = some (v % 2 ^ slotWidths.getD k 0) := by
  interval_cases k <;> refine ⟨_, rfl, congrArg some ?_⟩
  all_goals first
    | exact BitVec.toNat_ofNat _ _
    | exact bit_bit0 v

theorem readSlot_writeSlot_ne {r q : Regs} {j k v : Nat} (h : writeSlot r k v = some q) (hj : j ≠ k) :
    readSlot q j = readSlot r j := by
  unfold writeSlot at h
  split at h <;> cases h
  all_goals
    unfold readSlot
    split <;> first | rfl | exact absurd rfl hj

theorem no_slot_above {k : Nat} (hk : 18 < k) (r : Regs) (v : Nat) : writeSlot r k v = none ∧ readSlot r k = none := by
  unfold writeSlot readSlot
  constructor <;> split <;> first | rfl | omega

end Sys2Proof.Machine
end

section
/-! The guest decoder reads guest instructions only, so with no node pending a step that goes on runs one (R223). -/

namespace Sys2Proof.Machine

/-- What a guest decoder reads, if it reads anything, is a guest instruction. -/
def GuestOnly (d : Decoded) : Prop := ∀ i rest, d = .ok (i, rest) → isGuest i = true

theorem operand0_guestOnly {i : Instr} (hi : isGuest i = true) (rest : List Byte) : GuestOnly (operand0 i rest) := by
  intro j tail h
  cases h
  exact hi

theorem operand8_guestOnly {k : Byte → Instr} (hk : ∀ b, isGuest (k b) = true) (bytes : List Byte) :
    GuestOnly (operand8 k bytes) := by
  intro j tail h
  unfold operand8 at h
  split at h <;> cases h
  exact hk _

theorem operand16_guestOnly {k : Word16 → Instr} (hk : ∀ v, isGuest (k v) = true) (bytes : List Byte) :
    GuestOnly (operand16 k bytes) := by
  intro j tail h
  unfold operand16 at h
  split at h <;> cases h
  exact hk _

theorem operand24_guestOnly {k : Addr → Instr} (hk : ∀ a, isGuest (k a) = true) (bytes : List Byte) :
    GuestOnly (operand24 k bytes) := by
  intro j tail h
  unfold operand24 at h
  split at h <;> cases h
  exact hk _

theorem operandImm_guestOnly (narrow : Bool) {k : Word16 → Instr} (hk : ∀ v, isGuest (k v) = true) (bytes : List Byte) :
    GuestOnly (operandImm narrow k bytes) := by
  cases narrow
  · exact operand16_guestOnly hk bytes
  · exact operand8_guestOnly (fun _ => hk _) bytes

theorem operandSr_guestOnly (sr : SrOffset) {k : Word16 → Instr} (hk : ∀ v, isGuest (k v) = true) (bytes : List Byte) :
    GuestOnly (operandSr sr k bytes) := by
  cases sr
  · exact operand8_guestOnly (fun _ => hk _) bytes
  · exact operand16_guestOnly hk bytes

/-- Row by row and column by column of the opcode map, each entry by the shape of its operand. -/
theorem decodeGuest_guestOnly (c : Ctx) (bytes : List Byte) : GuestOnly (decodeGuest c bytes) := by
  cases bytes with
  | nil => exact fun _ _ h => nomatch h
  | cons op rest =>
    simp only [decodeGuest, decodeRow0, decodeRow1, decodeRow2, decodeRow3, decodeRow4, decodeRow5, decodeRow6, decodeRow7,
      decodeRow8, decodeRow9, decodeRowA, decodeRowB, decodeRowC, decodeRowD, decodeRowE, decodeRowF]
    split <;> split <;> first
      | exact operand0_guestOnly rfl rest
      | exact operand8_guestOnly (fun _ => rfl) rest
      | exact operand16_guestOnly (fun _ => rfl) rest
      | exact operand24_guestOnly (fun _ => rfl) rest
      | exact operandImm_guestOnly _ (fun _ => rfl) rest
      | exact operandSr_guestOnly _ (fun _ => rfl) rest

theorem decode_guest_isGuest {c : Ctx} {bytes : List Byte} {i : Instr} (h : decode c (.guest bytes) = .ok i) :
    isGuest i = true := by
  simp only [decode] at h
  split at h
  next hd =>
    cases h
    exact decodeGuest_guestOnly c bytes _ _ hd
  · cases h
  · cases h

theorem step_next_guest {s t : State} (hp : s.pendingNode = none) (h : step s = .next t) :
    ∃ i, isGuest i = true ∧ exec i s = .next t := by
  simp only [step, hp, stepGuest] at h
  split at h
  · cases h
  · split at h
    next i hd => exact ⟨i, decode_guest_isGuest hd, h⟩
    · cases h

end Sys2Proof.Machine
end

section
/-! The statements about the register file (10_state.md). -/

namespace Sys2Proof.Machine

/-- Settles O38: each clause reads a row of R44's table off the footprint. -/
theorem flagsHaveOnlyTheirWriters : Obligations.FlagsHaveOnlyTheirWriters := by
  intro i s t hi h
  obtain ⟨p, -, keeps⟩ := exec_same hi h
  refine ⟨fun hn => keeps .n ?_, fun hz => keeps .z ?_, fun hv => keeps .v ?_, fun hc => keeps .c ?_,
    fun hcld hsed hp => keeps .df ?_, fun hcli hsei hp => keeps .i ?_, fun hxce hp => ?_, fun hxce => keeps .e ?_⟩
  · simpa [hn] using instrWrites_n s.r.e s.r.m s.r.xf i
  · simpa [hz] using instrWrites_z s.r.e s.r.m s.r.xf i
  · rw [instrWrites_v, hv]
  · rw [instrWrites_c, hc]
  · simp [instrWrites_df, hcld, hsed, hp]
  · simp [instrWrites_i, hcli, hsei, hp]
  · have hwidths : (i == .xce || (unpacksP i && !s.r.e)) = false := by rcases hp with hp | hp <;> simp [hxce, hp]
    exact ⟨keeps .m (by rw [instrWrites_m, hwidths]), keeps .xf (by rw [instrWrites_xf, hwidths])⟩
  · simp [instrWrites_e, hxce]

/-- Settles O39: each clause reads a row of R36 to R41 off the footprint. -/
theorem registersHaveOnlyTheirWriters : Obligations.RegistersHaveOnlyTheirWriters := by
  intro i s t hi h
  obtain ⟨p, -, keeps⟩ := exec_same hi h
  refine ⟨fun htcd hpld => keeps .d ?_, fun hplb => keeps .dbr ?_, fun hjmp hrti => keeps .pbr ?_, fun hs => keeps .s ?_,
    fun ha => ⟨keeps .a ?_, keeps .b ?_⟩, fun hm hxba htsc htdc => keeps .b ?_,
    fun hxf => ⟨keeps .xHigh ?_, keeps .yHigh ?_⟩⟩
  · simp [instrWrites_d, htcd, hpld]
  · simp [instrWrites_dbr, hplb]
  · simpa [instrWrites_pbr _ _ _ _ hjmp, imp_iff_not_or] using hrti
  · rw [instrWrites_s, hs]
  · rw [instrWrites_a, ha]
  · simpa [ha] using instrWrites_b s.r.e s.r.m s.r.xf i
  · simp [hm, instrWrites_b_narrow, hxba, htsc, htdc]
  · rw [hxf, instrWrites_xHigh_narrow]
  · rw [hxf, instrWrites_yHigh_narrow]

/-- Settles O42: PC is not written by an instruction that transfers no control, so it has passed the instruction's bytes. -/
theorem fallThroughAdvancesPcByTheLength : Obligations.FallThroughAdvancesPcByTheLength := by
  intro i s t hi htransfer h
  obtain ⟨p, hp, keeps⟩ := exec_same hi h
  rw [guestLength_of_patternOf hp]
  refine ⟨keeps .pc (by rw [instrWrites_pc, htransfer]), keeps .pbr ?_⟩
  have hjmp : ∀ a, i ≠ .jmpLong a := by
    rintro a rfl
    cases htransfer
  have hrti : i ≠ .rti := by
    rintro rfl
    cases htransfer
  simp [instrWrites_pbr _ _ _ _ hjmp, hrti]

/-- Settles O32: every writer of S locks it under the E it leaves. -/
theorem stackPageLock : Obligations.StackPageLock := by
  intro i s t hw h he
  rw [← hi8_toNat, exec_writesStack_page hw h he]
  rfl

/-- XCE enters emulation mode with both widths at 8 bits (R414). -/
theorem exec_xce_widths {s t : State} (h : exec .xce s = .next t) (he : t.r.e = true) : t.r.m = true ∧ t.r.xf = true := by
  cases h
  have hc : s.r.c = true := he
  exact ⟨by simp [exchangeCE, hc], by simp [exchangeCE, hc]⟩

/-- Settles O46: XCE enters emulation mode with the premise; any other instruction finds E set already, and then neither it nor
a pull of P writes M or X_flag. -/
theorem guestStepKeepsEmulationLock : Obligations.GuestStepKeepsEmulationLock := by
  intro s t hp hlock h
  obtain ⟨i, hi, hexec⟩ := step_next_guest hp h
  refine emulationLock_iff.mpr fun he => ?_
  by_cases hxce : i = .xce
  · subst hxce
    obtain ⟨hm, hxf⟩ := exec_xce_widths hexec he
    exact ⟨hm, hxf, exec_writesStack_page rfl hexec he⟩
  · obtain ⟨-, -, -, -, -, -, hwidths, hE⟩ := flagsHaveOnlyTheirWriters i s t hi hexec
    obtain ⟨-, -, -, hS, -⟩ := registersHaveOnlyTheirWriters i s t hi hexec
    have hes : s.r.e = true := (hE hxce).symm.trans he
    obtain ⟨hm, hxf, hpage⟩ := emulationLock_iff.mp hlock hes
    obtain ⟨hm', hxf'⟩ := hwidths hxce (.inr hes)
    refine ⟨hm'.trans hm, hxf'.trans hxf, ?_⟩
    cases hw : writesStack i with
    | true => exact exec_writesStack_page hw hexec he
    | false => rw [hS hw, hpage]

/-- Settles O45: empty memories, an empty value array, and the reference registers of R553. -/
theorem resetMeetsInvariant : Obligations.ResetMeetsInvariant :=
  ⟨⟨by decide, by decide, by decide⟩, by decide⟩

/-- Settles O12: both are the immediate form of the accumulator family. -/
theorem addAndSubtractImmediate : Obligations.AddAndSubtractImmediate :=
  fun v s => ⟨aluImm_eq .adc v s, aluImm_eq .sbc v s⟩

/-- Settles O31: the pull reads the byte the push stored, S is back, and the byte unpacks to the flags it was packed from. -/
theorem pushThenPullStatusRestoresFlags : Obligations.PushThenPullStatusRestoresFlags := by
  intro s hfull hlock
  refine ⟨_, _, pushAt_full (fun _ => .w8) (fun r => zext16 (packFlags r)) hfull (fun _ _ => rfl) (fun _ _ => rfl),
    pullAt_full (fun _ => .w8) (fun v r => unpackFlags (lo8 v) r) hfull (fun _ _ => rfl), ?_⟩
  have hS : pulledS s.r.e (pushedS s.r.e s.r.s 1) 1 = s.r.s :=
    stackLock_sub_add fun he => (emulationLock_iff.mp hlock he).2.2
  have hbyte : pulledByte (pushedMem s.mem s.r.e s.r.s [packFlags s.r]) s.r.e (pushedS s.r.e s.r.s 1) 1 = packFlags s.r := by
    rw [pulledByte, hS, pushedMem, pushedMem, stackByte, byteAt_write, if_pos rfl]
  have hregs : { Regs.passed 1 4 { s.r.passed 1 3 with s := pushedS s.r.e s.r.s 1 } with s := s.r.s } = s.r.passed 2 7 := by
    simp [Regs.passed, BitVec.add_assoc]
  calc
    _ = unpackFlags (packFlags s.r) (s.r.passed 2 7) := by
      rw [← hregs]
      simp only [Width.bytes, pulledValue, pushOrder, lo8_zext16, Regs.passed_e, hbyte, hS]
    _ = s.r.passed 2 7 := unpackFlags_packFlags (s.r.passed 2 7)

/-- Settles O54: the widths the statement lists are `slotWidths`. -/
theorem registerBusSlots : Obligations.RegisterBusSlots := by
  refine ⟨fun r k v hk => ?_, fun r k v hk => no_slot_above hk r v⟩
  obtain ⟨q, hq, hread⟩ := readSlot_writeSlot_same r v hk
  exact ⟨q, hq, hread, fun j hj => readSlot_writeSlot_ne hq hj⟩

end Sys2Proof.Machine
end

section
/-! The memory forms (20_memory.md): which pattern each is, the bytes one leaves, and the first access out of range. -/

namespace Sys2Proof.Machine

/-! ### A memory form's pattern (R110, R112)

Each is a comparison of two tables, mode by mode and operation by operation. -/

theorem patternOf_aluForm {op : AluOp} {m : Mode} {i : Instr} (h : op.memForm m = some i) :
    patternOf i = some (.aluMem op m) := by
  cases m <;> cases op <;> cases h <;> rfl

theorem patternOf_bitForm {m : Mode} {i : Instr} (h : bitForm m = some i) : patternOf i = some (.bitMem m) := by
  cases m <;> cases h <;> rfl

theorem patternOf_ldForm {reg : Idx} {m : Mode} {i : Instr} (h : reg.ldForm m = some i) :
    patternOf i = some (.ldIdxMem reg m) := by
  cases m <;> cases reg <;> cases h <;> rfl

theorem patternOf_cpForm {reg : Idx} {m : Mode} {i : Instr} (h : reg.cpForm m = some i) :
    patternOf i = some (.cpIdxMem reg m) := by
  cases m <;> cases reg <;> cases h <;> rfl

theorem patternOf_rmwForm {op : RmwOp} {m : Mode} {i : Instr} (h : op.memForm m = some i) :
    patternOf i = some (.rmwMem op m) := by
  cases m <;> cases op <;> cases h <;> rfl

theorem patternOf_storeForm {op : StoreOp} {m : Mode} {i : Instr} (h : op.form m = some i) :
    patternOf i = some (.store op m) := by
  cases m <;> cases op <;> cases h <;> rfl

/-! ### Memory after an instruction that goes on -/

theorem exec_next_memory {i : Instr} {p : Pattern} {s t : State} (hp : patternOf i = some p) (h : exec i s = .next t) :
    t.mem = p.memory s := by
  rw [Pattern.run_next ((exec_patternOf hp s).symm.trans h)]

/-- The patterns that write guest memory. -/
def Pattern.stores : Pattern → Bool
  | .store _ _ | .rmwMem _ _ | .push _ | .jsr _ => true
  | _ => false

theorem Pattern.memory_of_not_stores {p : Pattern} (h : p.stores = false) (s : State) : p.memory s = s.mem := by
  cases p <;> first | rfl | cases h

/-- The instructions listed as writers of memory are those whose pattern stores. -/
theorem writesMemory_eq_stores {i : Instr} {p : Pattern} (hp : patternOf i = some p) : writesMemory i = p.stores := by
  cases i <;> cases hp <;> rfl

/-! ### The halves of a number of 16 bits -/

theorem lo8_ofNat16 (n : Nat) : lo8 (BitVec.ofNat 16 n) = BitVec.ofNat 8 n := by
  apply BitVec.eq_of_toNat_eq
  rw [lo8_toNat, BitVec.toNat_ofNat, BitVec.toNat_ofNat]
  omega

theorem hi8_ofNat16 (n : Nat) : hi8 (BitVec.ofNat 16 n) = BitVec.ofNat 8 (n / 256) := by
  apply BitVec.eq_of_toNat_eq
  rw [hi8_toNat, BitVec.toNat_ofNat, BitVec.toNat_ofNat]
  omega

/-! ### Accesses out of range (R504, R505) -/

/-- An index register's low byte is the same at either width (R285). -/
theorem lo8_loadIdx (i : Idx) (r : Regs) : lo8 (loadIdx i r) = lo8 (i.raw r) := by
  unfold loadIdx
  split
  · exact lo8_zext16 _
  · rfl

/-- The value a store pattern writes is changed by no fetch or cycle. Under X_flag it is the index register with its high byte
cleared, so only the low byte is sure to be that of `StoreOp.value`. -/
theorem Pattern.run_store (op : StoreOp) (m : Mode) (s : State) :
    ∃ value, (Pattern.store op m).run s = storeMem op.width value m s ∧
      (∀ n k, value (s.r.passed n k) = value s.r) ∧ lo8 (value s.r) = lo8 (op.value s.r) := by
  cases op with
  | sta => exact ⟨loadA, rfl, fun _ _ => rfl, rfl⟩
  | stz => exact ⟨fun _ => 0x0000#16, rfl, fun _ _ => rfl, rfl⟩
  | stx => exact ⟨loadIdx .x, rfl, fun _ _ => loadIdx_passed _ _ _ _, lo8_loadIdx .x s.r⟩
  | sty => exact ⟨loadIdx .y, rfl, fun _ _ => loadIdx_passed _ _ _ _, lo8_loadIdx .y s.r⟩

theorem StoreOp.width_passed (op : StoreOp) (n k : Nat) (r : Regs) : op.width (r.passed n k) = op.width r := by
  cases op <;> rfl

/-! ### The obligations -/

/-- Settles O40: an instruction not listed as a writer has a pattern that leaves memory as it was. -/
theorem onlyStoringInstructionsWriteMemory : Obligations.OnlyStoringInstructionsWriteMemory := by
  intro i s t hi hw h
  obtain ⟨p, hp⟩ := patternOf_isGuest hi
  rw [exec_next_memory hp h]
  exact Pattern.memory_of_not_stores ((writesMemory_eq_stores hp).symm.trans hw) s

/-- Settles O17: memory is what the form's pattern leaves, a store's bytes or a write-back's. -/
theorem storesTouchOnlyTheirBytes : Obligations.StoresTouchOnlyTheirBytes := by
  refine ⟨fun op m i s t hi _ h => ?_, fun op m i s t hi _ h => ?_⟩
  · intro ea w
    rw [exec_next_memory (patternOf_storeForm hi) h]
    exact storedAt_bytes s.mem ea w (op.value s.r)
  · intro ea w result
    rw [exec_next_memory (patternOf_rmwForm hi) h, ← lo8_ofNat16, ← hi8_ofNat16]
    exact writtenBack_bytes s.mem ea w (BitVec.ofNat 16 result)

/-- Settles O10: the reads of a form stop at the first byte of their trail out of range; a store stops at a pointer byte, or at
its low byte, or at its high byte with the low one written. -/
theorem dataAccessOutOfRangeFaults : Obligations.DataAccessOutOfRangeFaults := by
  intro m i s
  refine ⟨fun op hi k a h => ?_, fun hi k a h => ?_, fun reg hi k a h => ?_, fun reg hi k a h => ?_,
    fun op hi k a h => ?_, fun op hi => ?_⟩
  · rw [exec_patternOf (patternOf_aluForm hi)]
    exact readForm_out false m widthA _ (fun _ _ => rfl) h
  · rw [exec_patternOf (patternOf_bitForm hi)]
    exact readForm_out false m widthA _ (fun _ _ => rfl) h
  · rw [exec_patternOf (patternOf_ldForm hi)]
    exact readForm_out false m widthX _ (fun _ _ => rfl) h
  · rw [exec_patternOf (patternOf_cpForm hi)]
    exact readForm_out false m widthX _ (fun _ _ => rfl) h
  · rw [exec_patternOf (patternOf_rmwForm hi)]
    exact readForm_out true m widthA _ (fun _ _ => rfl) h
  · obtain ⟨value, hrun, hvalue, hlow⟩ := Pattern.run_store op m s
    rw [exec_patternOf (patternOf_storeForm hi), hrun, ← hlow]
    have hdata := storeMem_out op.width value m (fun n k => op.width_passed n k s.r) hvalue
    exact ⟨fun k a h => runMode_ptr_out true m _ h, fun h => (hdata h).1, fun h => (hdata h).2⟩

end Sys2Proof.Machine
end

section
/-! The encoding of both levels (30_encoding.md): decoding undoes encoding, and guest bytes that decode are the encoding of what
they decode to. -/

namespace Sys2Proof

/-! ### From an instruction to its code and back (R100 to R107, R120 to R124) -/

section RoundTrip

open Laws.RoundTrip (ofGuest node2 node3)

/-- Settles O1, by the shape of an instruction's code: the operand bytes, or the node's slots, are put together again to the
operand. Without an operand, or with one of a byte, the decoder computes. -/
theorem decodeEncodeRoundTrip : Obligations.DecodeEncodeRoundTrip := by
  intro c i h
  cases i with
  | oraImm _ | andImm _ | eorImm _ | adcImm _ | bitImm _ | ldaImm _ | cmpImm _ | sbcImm _
  | ldyImm _ | ldxImm _ | cpyImm _ | cpxImm _ => exact ofGuest (operandImm_bytes _ h)
  | oraSr _ | andSr _ | eorSr _ | adcSr _ | staSr _ | ldaSr _ | cmpSr _ | sbcSr _ => exact ofGuest (operandSr_bytes _ h)
  | oraAbs _ | oraAbsX _ | oraAbsY _ | andAbs _ | andAbsX _ | andAbsY _ | eorAbs _ | eorAbsX _ | eorAbsY _
  | adcAbs _ | adcAbsX _ | adcAbsY _ | staAbs _ | staAbsX _ | staAbsY _ | ldaAbs _ | ldaAbsX _ | ldaAbsY _
  | cmpAbs _ | cmpAbsX _ | cmpAbsY _ | sbcAbs _ | sbcAbsX _ | sbcAbsY _ | aslAbs _ | aslAbsX _ | rolAbs _ | rolAbsX _
  | lsrAbs _ | lsrAbsX _ | rorAbs _ | rorAbsX _ | incAbs _ | incAbsX _ | decAbs _ | decAbsX _ | bitAbs _ | bitAbsX _
  | stzAbs _ | stzAbsX _ | ldxAbs _ | ldxAbsY _ | ldyAbs _ | ldyAbsX _ | stxAbs _ | styAbs _ | cpxAbs _ | cpyAbs _
  | jmpAbs _ | jmpAbsInd _ | jsrAbs _ => exact ofGuest (operand16_bytes _ _)
  | oraLong _ | oraLongX _ | andLong _ | andLongX _ | eorLong _ | eorLongX _ | adcLong _ | adcLongX _ | staLong _ | staLongX _
  | ldaLong _ | ldaLongX _ | cmpLong _ | cmpLongX _ | sbcLong _ | sbcLongX _ | jmpLong _ => exact ofGuest (operand24_bytes _ _)
  | irConst numBits isSigned value => exact Laws.RoundTrip.irConst numBits isSigned value c h
  | irConst48 imm48 => exact Laws.RoundTrip.irConst48 imm48 c h
  | irNot a => exact Laws.RoundTrip.irNot a c h
  | irAdd _ _ | irSub _ _ | irAnd _ _ | irOr _ _ | irXor _ _ | irShiftLeft _ _ | irShiftRight _ _ | irCat _ _ | irZext _ _
  | irEq _ _ | irNeq _ _ | irLoad8 _ _ | irLoad16 _ _ | irLoad32 _ _ | irLoad64 _ _ | irStateRead _ _ | irAssert _ _ =>
    exact node2 fun w htag => by rw [decodeNode, htag]; rfl
  | irExtract _ _ _ | irTernary _ _ _ | irMemState _ _ _ | irStore8 _ _ _ | irStore16 _ _ _ | irStore32 _ _ _
  | irStore64 _ _ _ | irStateWrite _ _ _ => exact node3 fun w htag => by rw [decodeNode, htag]; rfl
  | _ => rfl

end RoundTrip

/-! ### From guest bytes to an instruction and back (R107, R112) -/

/-- What reading behind an opcode byte comes to: a well-formed instruction whose encoding is the opcode and the operand bytes
read, as many as the length rule asks for; or an error, and then there are fewer bytes than that. -/
def ReadsBack (c : Ctx) (op : Byte) (bytes : List Byte) : Decoded → Prop
  | .ok (i, rest) => ∃ operand, bytes = operand ++ rest ∧ operand.length + 1 = instrLength c op ∧
      encode c i = .guest (op :: operand) ∧ i.wellFormed c = true
  | .error _ => bytes.length + 1 < instrLength c op

section Shapes

variable {c : Ctx} {op : Byte} {bytes : List Byte}

theorem operand0_readsBack {i : Instr} (hlen : instrLength c op = 1) (hencode : encode c i = .guest [op])
    (hwf : i.wellFormed c = true) : ReadsBack c op bytes (operand0 i bytes) :=
  ⟨[], rfl, hlen.symm, hencode, hwf⟩

theorem operand8_readsBack {k : Byte → Instr} (hlen : instrLength c op = 2) (hencode : ∀ b, encode c (k b) = .guest [op, b])
    (hwf : ∀ b, (k b).wellFormed c = true) : ReadsBack c op bytes (operand8 k bytes) := by
  match bytes with
  | [] => simp [ReadsBack, operand8, hlen]
  | b :: rest => exact ⟨[b], rfl, hlen.symm, hencode b, hwf b⟩

theorem operand16_readsBack {k : Word16 → Instr} (hlen : instrLength c op = 3)
    (hencode : ∀ v, encode c (k v) = .guest (op :: bytes16 v)) (hwf : ∀ v, (k v).wellFormed c = true) :
    ReadsBack c op bytes (operand16 k bytes) := by
  match bytes with
  | [] | [_] => simp [ReadsBack, operand16, hlen]
  | lo :: hi :: rest => exact ⟨[lo, hi], rfl, hlen.symm, by rw [hencode, bytes16_le16], hwf _⟩

theorem operand24_readsBack {k : Addr → Instr} (hlen : instrLength c op = 4)
    (hencode : ∀ a, encode c (k a) = .guest (op :: bytes24 a)) (hwf : ∀ a, (k a).wellFormed c = true) :
    ReadsBack c op bytes (operand24 k bytes) := by
  match bytes with
  | [] | [_] | [_, _] => simp [ReadsBack, operand24, hlen]
  | lo :: hi :: bank :: rest => exact ⟨[lo, hi, bank], rfl, hlen.symm, by rw [hencode, bytes24_le24], hwf _⟩

/-- A narrow immediate is zero-extended, which is what makes it well formed (R102, R209). -/
theorem operandImm_readsBack {narrow : Bool} {k : Word16 → Instr} (hlen : instrLength c op = if narrow then 2 else 3)
    (hencode : ∀ v, encode c (k v) = .guest (op :: bytesImm narrow v)) (hwf : ∀ v, (k v).wellFormed c = immFits narrow v) :
    ReadsBack c op bytes (operandImm narrow k bytes) := by
  cases narrow with
  | false => exact operand16_readsBack hlen hencode hwf
  | true =>
    refine operand8_readsBack hlen (fun b => ?_) (fun b => ?_)
    · simp [hencode, bytesImm, low_zext]
    · simp [hwf, immFits, high_zext]

/-- So is a stack-relative offset of one byte (R106). -/
theorem operandSr_readsBack {sr : SrOffset} {k : Word16 → Instr} (hlen : instrLength c op = 1 + sr.bytes)
    (hencode : ∀ v, encode c (k v) = .guest (op :: bytesSr sr v)) (hwf : ∀ v, (k v).wellFormed c = srFits sr v) :
    ReadsBack c op bytes (operandSr sr k bytes) := by
  cases sr with
  | twoBytes => exact operand16_readsBack hlen hencode hwf
  | oneByte =>
    refine operand8_readsBack hlen (fun b => ?_) (fun b => ?_)
    · simp [hencode, bytesSr, low_zext]
    · simp [hwf, srFits, high_zext]

end Shapes

theorem exists_nibbles (op : Byte) : ∃ row < 16, ∃ column < 16, op = BitVec.ofNat 8 (16 * row + column) :=
  ⟨op.toNat / 16, by omega, op.toNat % 16, by omega, by rw [Nat.div_add_mod, BitVec.ofNat_toNat, BitVec.setWidth_eq]⟩

/-- The decoder's map, the encoder's, the lengths and well-formedness agree on every opcode: row by row and column by column, by
the shape of the operand, and then each is a comparison of two table entries. -/
theorem decodeGuest_readsBack (c : Ctx) (op : Byte) (bytes : List Byte) :
    ReadsBack c op bytes (decodeGuest c (op :: bytes)) := by
  obtain ⟨row, hrow, column, hcolumn, rfl⟩ := exists_nibbles op
  have hhigh : (BitVec.ofNat 8 (16 * row + column)).toNat / 16 = row := by
    rw [BitVec.toNat_ofNat]
    omega
  have hlow : (BitVec.ofNat 8 (16 * row + column)).toNat % 16 = column := by
    rw [BitVec.toNat_ofNat]
    omega
  simp only [decodeGuest, hhigh, hlow]
  clear hhigh hlow
  interval_cases row <;> simp only <;> interval_cases column
  all_goals simp only [decodeRow0, decodeRow1, decodeRow2, decodeRow3, decodeRow4, decodeRow5, decodeRow6, decodeRow7,
    decodeRow8, decodeRow9, decodeRowA, decodeRowB, decodeRowC, decodeRowD, decodeRowE, decodeRowF]
  all_goals with_reducible first
    | apply operand0_readsBack
    | apply operand8_readsBack
    | apply operand16_readsBack
    | apply operand24_readsBack
    | apply operandImm_readsBack
    | apply operandSr_readsBack
  all_goals
    intros
    rfl

theorem decodeGuest_of_decode {c : Ctx} {bytes : List Byte} {i : Instr} (h : decode c (.guest bytes) = .ok i) :
    decodeGuest c bytes = .ok (i, []) := by
  simp only [decode] at h
  split at h
  next hd => rw [hd, Except.ok.inj h]
  · cases h
  · cases h

/-- Settles O2: the whole code is the opcode byte and the operand bytes read behind it. -/
theorem guestBytesHaveOneMeaning : Obligations.GuestBytesHaveOneMeaning := by
  intro c bytes i h
  cases bytes with
  | nil => cases h
  | cons op rest =>
    have hread := decodeGuest_readsBack c op rest
    rw [decodeGuest_of_decode h] at hread
    obtain ⟨operand, rfl, -, hencode, hwf⟩ := hread
    exact ⟨by rw [hencode, List.append_nil], hwf⟩

/-- As many bytes as the length rule asks for are enough, and none is left over. -/
theorem decode_of_length {c : Ctx} {op : Byte} {rest : List Byte} (h : rest.length + 1 = instrLength c op) :
    ∃ i, decode c (.guest (op :: rest)) = .ok i := by
  have hread := decodeGuest_readsBack c op rest
  cases hd : decodeGuest c (op :: rest) with
  | error e =>
    rw [hd] at hread
    exact absurd h hread.ne
  | ok p =>
    obtain ⟨i, tail⟩ := p
    rw [hd] at hread
    obtain ⟨operand, rfl, hlen, -⟩ := hread
    have htail : tail = [] := by
      rw [← hlen, List.length_append] at h
      exact List.length_eq_zero_iff.mp (by omega)
    exact ⟨i, Laws.RoundTrip.ofGuest (hd.trans (by rw [htail]))⟩

theorem instrLength_of_unimplemented {op : Byte} (h : isUnimplemented op = true) (c : Ctx) : instrLength c op = 1 := by
  rw [instrLength, eq_of_beq h]
  rfl

end Sys2Proof

namespace Sys2Proof.Machine

/-! ### The 38 unimplemented opcodes (R113, R501) -/

theorem isUnimplemented_iff : ∀ op : Byte, isUnimplemented op = true ↔ op ∈ unimplementedInstrs.map Prod.fst := by
  decide

section Unimplemented

variable {p : Byte × Instr} (hp : p ∈ unimplementedInstrs)
include hp

theorem isUnimplemented_of_mem : isUnimplemented p.1 = true :=
  (isUnimplemented_iff p.1).mpr (List.mem_map_of_mem hp)

theorem decode_unimplemented (c : Ctx) : decode c (.guest [p.1]) = .ok p.2 := by
  fin_cases hp <;> rfl

theorem patternOf_unimplemented : patternOf p.2 = some (.unimplemented p.1) := by
  fin_cases hp <;> rfl

end Unimplemented

/-- Settles O3: bytes of the right length decode. Bytes that decode to an unimplemented instruction are its one opcode byte, and
an unimplemented opcode has no operand byte. -/
theorem everyOpcodeDecodesAtItsLength : Obligations.EveryOpcodeDecodesAtItsLength := by
  intro c op rest hlen
  obtain ⟨i, hd⟩ := decode_of_length hlen
  refine ⟨i, hd, fun hi => ?_, fun hop => ?_⟩
  · obtain ⟨p, hp, rfl⟩ := List.mem_map.mp hi
    obtain ⟨halone, -⟩ := guestBytesHaveOneMeaning c [p.1] p.2 (decode_unimplemented hp c)
    obtain ⟨hbytes, -⟩ := guestBytesHaveOneMeaning c (op :: rest) p.2 hd
    cases halone.symm.trans hbytes
    exact isUnimplemented_of_mem hp
  · obtain ⟨p, hp, rfl⟩ := List.mem_map.mp ((isUnimplemented_iff op).mp hop)
    have hrest : rest = [] := by
      rw [instrLength_of_unimplemented hop] at hlen
      exact List.length_eq_zero_iff.mp (by omega)
    rw [hrest, decode_unimplemented hp c] at hd
    exact List.mem_map.mpr ⟨p, hp, Except.ok.inj hd⟩

/-- Settles O9: each runs the pattern that faults, and a step fetches its byte alone. -/
theorem unimplementedOpcodesFaultWithNoEffect : Obligations.UnimplementedOpcodesFaultWithNoEffect := by
  refine ⟨rfl, isUnimplemented_iff, fun p hp s => ?_⟩
  have hexec : exec p.2 s = .fault (.unimplementedOpcode p.1 (mkAddr s.r.pbr s.r.pc) s) :=
    exec_patternOf (patternOf_unimplemented hp) s
  refine ⟨decode_unimplemented hp s.ctx, hexec, fun hpending hin hbyte => ?_⟩
  have hlen : instrLength s.ctx (byteAt s.mem (mkAddr s.r.pbr s.r.pc)) = 1 := by
    rw [hbyte]
    exact instrLength_of_unimplemented (isUnimplemented_of_mem hp) s.ctx
  rw [← hexec]
  apply stepRunsDecodedInstruction s p.2 hpending <;> rw [hlen]
  · intro k hk
    rwa [Nat.lt_one_iff.mp hk, BitVec.add_zero]
  · rw [codeAt, hbyte]
    exact decode_unimplemented hp s.ctx

/-- Settles O4: the decoder computes on each word. -/
theorem sampleWordsDecode : Obligations.SampleWordsDecode :=
  ⟨rfl, rfl, rfl, rfl, rfl, rfl, rfl, rfl, rfl, rfl, rfl, rfl, rfl⟩

end Sys2Proof.Machine
end

section
/-! No step is refused (R114, R506, R508): every instruction has a meaning, and the bytes a step fetches decode. -/

namespace Sys2Proof.Machine

/-! ### No meaning refuses -/

theorem runGuest_not_refused (n : Nat) (body : Exec Unit) (s : State) (why : Refusal) : runGuest n body s ≠ .refused why := by
  unfold runGuest
  split <;> exact nofun

theorem runNode_not_refused (rule : Exec IrVal) (s : State) (why : Refusal) : runNode rule s ≠ .refused why := by
  unfold runNode
  split <;> exact nofun

/-- A pattern that makes no access and takes no branch computes; any other is a run of its rule. -/
theorem Pattern.run_not_refused (p : Pattern) (s : State) (why : Refusal) : p.run s ≠ .refused why := by
  cases p with
  | unimplemented _ | aluImm _ _ | rmwAcc _ | bitImm _ | ldIdxImm _ _ | cpIdxImm _ _ | stepIdx _ _ | implied _ _ | jmpAbs _
  | jmpLong _ => exact nofun
  | store op _ => cases op <;> exact runGuest_not_refused _ _ s why
  | _ => exact runGuest_not_refused _ _ s why

theorem exec_not_refused (i : Instr) (s : State) (why : Refusal) : exec i s ≠ .refused why := by
  cases hp : patternOf i with
  | some p =>
    rw [exec_patternOf hp]
    exact p.run_not_refused s why
  | none =>
    cases i with
    | irConst48 _ => exact nofun
    | _ => first | exact runNode_not_refused _ s why | cases hp

/-! ### What a step fetches decodes (R107, R223) -/

/-- A fetch that does not fault answers the bytes that stand at `{PBR, PC}`: were one out of range, the first such would
fault. -/
theorem fetchInstr_ok {s t : State} {bytes : List Byte} (h : fetchInstr s = .ok bytes t) :
    bytes = codeAt s.mem s.r.pbr s.r.pc (instrLength s.ctx (byteAt s.mem (mkAddr s.r.pbr s.r.pc))) := by
  by_cases hin : ∀ k, k < instrLength s.ctx (byteAt s.mem (mkAddr s.r.pbr s.r.pc)) →
      (mkAddr s.r.pbr (s.r.pc + BitVec.ofNat 16 k)).toNat < s.cfg.memBytes
  · obtain ⟨u, hu⟩ := fetchInstr_inRange s hin
    cases h.symm.trans hu
    rfl
  · have hout : ∃ k, k < instrLength s.ctx (byteAt s.mem (mkAddr s.r.pbr s.r.pc)) ∧
        s.cfg.memBytes ≤ (mkAddr s.r.pbr (s.r.pc + BitVec.ofNat 16 k)).toNat := by
      simpa only [not_forall, not_lt, exists_prop] using hin
    obtain ⟨hk, hmem⟩ := Nat.find_spec hout
    rcases Nat.eq_zero_or_pos (Nat.find hout) with hzero | hpos
    · rw [hzero, BitVec.add_zero] at hmem
      cases h.symm.trans (fetchInstr_opcode_out hmem)
    · have hbelow (j : Nat) (hj : j < Nat.find hout) : (mkAddr s.r.pbr (s.r.pc + BitVec.ofNat 16 j)).toNat < s.cfg.memBytes :=
        Nat.lt_of_not_le fun hle => Nat.find_min hout hj ⟨hj.trans hk, hle⟩
      cases h.symm.trans (fetchInstr_out hpos hk hbelow hmem)

theorem length_codeAt (mem : Memory) (pbr : Byte) (pc : Word16) (n : Nat) : (codeAt mem pbr pc n).length = n := by
  induction n generalizing pc with
  | zero => rfl
  | succ n ih => rw [codeAt, List.length_cons, ih]

theorem decode_of_fetchInstr {s t : State} {bytes : List Byte} (h : fetchInstr s = .ok bytes t) :
    ∃ i, decode s.ctx (.guest bytes) = .ok i := by
  rw [fetchInstr_ok h]
  obtain ⟨n, hn⟩ := Nat.exists_eq_add_one.mpr (instrLength_pos s.ctx (byteAt s.mem (mkAddr s.r.pbr s.r.pc)))
  rw [hn, codeAt]
  exact decode_of_length (by rw [length_codeAt, hn])

/-! ### The two kinds of step (R161, R223) -/

theorem stepNode_not_refused (w : Node) (s : State) (why : Refusal) : stepNode w s ≠ .refused why := by
  unfold stepNode
  split
  · split
    · exact nofun
    · exact exec_not_refused _ s why
  · exact nofun

theorem stepGuest_not_refused (s : State) (why : Refusal) : stepGuest s ≠ .refused why := by
  unfold stepGuest
  split
  · exact nofun
  next hfetch =>
    obtain ⟨i, hi⟩ := decode_of_fetchInstr hfetch
    simp only [hi]
    exact exec_not_refused i s why

/-- Settles O7: neither kind of step refuses. -/
theorem stepNeverRefuses : Obligations.StepNeverRefuses := by
  intro s why
  unfold step
  split
  · exact stepNode_not_refused _ s why
  · exact stepGuest_not_refused s why

end Sys2Proof.Machine
end

section
/-! The step that evaluates a node, and the constant nodes (40_ir.md R161 to R164). -/

namespace Sys2Proof.Machine

theorem step_of_pendingNode {s : State} {w : Node} (hp : s.pendingNode = some w) : step s = stepNode w s := by
  rw [step, hp]

theorem decodeNode_unusedTag {w : Node} (h : 28 ≤ (Node.tag w).toNat) :
    decodeNode w = .error (.unusedTag (Node.tag w)) := by
  unfold decodeNode
  split <;> first | omega | rfl

/-- The check of a node's unused slots looks at the slots its op does not use, tag by tag. -/
theorem strayArgument_of_decodeNode {w : Node} {i : Instr} (h : decodeNode w = .ok i) (n : Nat) :
    strayArgument w i n = (unusedSlots w i).any fun a => a != sentinel && decide (n ≤ a.toNat) := by
  unfold decodeNode at h
  split at h <;> cases h <;> rfl

/-- Settles O6: the three clauses are the branches of `stepNode`. -/
theorem stepEvaluatesPendingNode : Obligations.StepEvaluatesPendingNode := by
  intro s w hp
  rw [step_of_pendingNode hp]
  refine ⟨fun i hd hslots => ?_, fun i a hd ha hsentinel hforward => ?_, fun htag => ?_⟩
  · have hstray : strayArgument w i s.vals.length = false := by
      rw [strayArgument_of_decodeNode hd, List.any_eq_false]
      intro a ha
      rcases hslots a ha with rfl | hlt <;> simp [*]
    simp only [stepNode, hd, hstray, Bool.false_eq_true, if_false]
  · have hstray : strayArgument w i s.vals.length = true := by
      rw [strayArgument_of_decodeNode hd, List.any_eq_true]
      exact ⟨a, ha, by simp [hsentinel, hforward]⟩
    simp only [stepNode, hd, hstray, if_true]
  · simp only [stepNode, decodeNode_unusedTag htag]

/-- Settles O47: the sign extension of the 32 bits is their signed number modulo 2^64. -/
theorem irConstants : Obligations.IrConstants := by
  refine ⟨fun numBits isSigned value s => ⟨fun hwidth => ?_, fun hwidth => ?_⟩, fun imm48 s => rfl⟩
  · have hsigned : (value.signExtend 64).toNat = (value.toInt % 2 ^ 64).toNat := BitVec.toNat_ofInt value.toInt
    refine runNode_ok ?_
    simp only [hwidth, if_true, beq_iff_eq, hsigned]
    rfl
  · refine runNode_error (t := s) ?_
    simp only [hwidth, Bool.false_eq_true, if_false]
    rfl

end Sys2Proof.Machine
end

section
/-! Evaluating a node (40_ir.md R160 to R162): what a node that goes on can do, said once for all 28 ops, and what every
step keeps. -/

namespace Sys2Proof.Machine

/-! ### Sequencing -/

theorem Exec.bind_of_ok {α β : Type} {x : Exec α} {f : α → Exec β} {s t : State} {a : α} (h : x s = .ok a t) :
    (x >>= f) s = f a t := by rw [Exec.bind_apply, h]

theorem Exec.bind_of_error {α β : Type} {x : Exec α} {f : α → Exec β} {s t : State} {e : Fault} (h : x s = .error e t) :
    (x >>= f) s = .error e t := by rw [Exec.bind_apply, h]

/-! ### Rules that leave the state alone -/

/-- Run from `s`, the computation, if it goes on, leaves the state alone and answers a value with property `P`. -/
def Exec.Reads {α : Type} (s : State) (x : Exec α) (P : α → Prop) : Prop := ∀ a t, x s = .ok a t → t = s ∧ P a

/-- What R160 asks of a new value, given that the values before it have it. -/
def KeepsMasked (s : State) (v : IrVal) : Prop := s.valuesMasked = true → v.masked = true

section Reads

variable {α β : Type} {s : State}

theorem Exec.Reads.bind {x : Exec α} {f : α → Exec β} {P : α → Prop} {Q : β → Prop} (hx : x.Reads s P)
    (hf : ∀ a, P a → (f a).Reads s Q) : (x >>= f).Reads s Q := by
  intro b u h
  obtain ⟨a, t, hxa, hfa⟩ := Exec.bind_ok h
  obtain ⟨rfl, ha⟩ := hx a t hxa
  exact hf a ha b u hfa

theorem Exec.Reads.pure {a : α} {P : α → Prop} (h : P a) : (Pure.pure a : Exec α).Reads s P := by
  intro b t hb
  cases hb
  exact ⟨rfl, h⟩

theorem Exec.Reads.ite {p : Prop} [Decidable p] {x y : Exec α} {P : α → Prop} (hx : p → x.Reads s P) (hy : ¬p → y.Reads s P) :
    (if p then x else y).Reads s P := by
  split
  next hp => exact hx hp
  next hp => exact hy hp

theorem Exec.Reads.error {f : State → Fault} {P : α → Prop} : Exec.Reads s (fun t => .error (f t) t) P := fun _ _ => nofun

theorem irFail_reads {why : IrReason} {P : α → Prop} : (irFail why).Reads s P := .error

theorem get_reads : (get : Exec State).Reads s fun _ => True := fun _ _ h => by cases h; exact ⟨rfl, trivial⟩

theorem irArg_reads {h : Handle} : (irArg h).Reads s (KeepsMasked s) := by
  intro v t hv
  obtain ⟨rfl, hget⟩ := irArg_ok hv
  exact ⟨rfl, fun hm => valuesMasked_get hm hget⟩

theorem irConstArg_reads {h : Handle} : (irConstArg h).Reads s fun _ => True := fun _ _ e => ⟨irConstArg_ok e, trivial⟩

theorem irSize_reads {h : Handle} : (irSize h).Reads s (· ≤ 8) := fun _ _ e => irSize_ok e

theorem irResult_reads {w n : Nat} : (irResult w n).Reads s (KeepsMasked s) := by
  intro v t e
  obtain ⟨rfl, rfl, hw⟩ := irResult_ok e
  exact ⟨rfl, fun _ => masked_of n hw⟩

/-- An op over two values has the width of the first (R166 to R170). -/
theorem binaryNode_reads {f : Nat → Nat → Nat → Nat} {a b : Handle} : (binaryNode f a b).Reads s (KeepsMasked s) :=
  .bind irArg_reads fun _ hx => .bind irArg_reads fun _ _ => .pure fun hm => masked_of _ (masked_wid (hx hm))

theorem loadNode_reads {n : Nat} (hn : 8 * n ≤ 64) {ms addr : Handle} : (loadNode n ms addr).Reads s (KeepsMasked s) := by
  intro v t e
  obtain ⟨rfl, k, rfl⟩ := loadNode_ok e
  exact ⟨rfl, fun _ => masked_of k hn⟩

end Reads

/-! ### What a node does (R160 to R162, R182, R183) -/

/-- The states a node can leave before its value is appended: a store changes the register file or guest memory, StateWrite the
state namespace, any other op nothing. -/
inductive NodeEffect (i : Instr) (s : State) : State → Prop where
  | none : NodeEffect i s s
  | regs (r : Regs) (hi : irStores i = true) : NodeEffect i s { s with r := r }
  | mem (a : Addr) (v n : Nat) (hi : irStores i = true) : NodeEffect i s { s with mem := storedLittle s.mem a v n }
  | aux (o size value : Handle) (a v n : Nat) (hi : i = .irStateWrite o size value) :
    NodeEffect i s { s with aux := auxStored s.aux a v n }

/-- A completed evaluation: an effect the op may have, then one more value. -/
def NodeNext (i : Instr) (s t : State) : Prop := ∃ u v, NodeEffect i s u ∧ KeepsMasked s v ∧ t = u.push v

theorem nodeNext_of_reads {i : Instr} {rule : Exec IrVal} {s t : State} (hr : rule.Reads s (KeepsMasked s))
    (h : runNode rule s = .next t) : NodeNext i s t := by
  obtain ⟨v, u, hv, rfl⟩ := runNode_next h
  obtain ⟨rfl, hm⟩ := hr v u hv
  exact ⟨u, v, .none, hm, rfl⟩

theorem nodeNext_of_store {i : Instr} (hi : irStores i = true) {n : Nat} (hn : 8 * n ≤ 64) {ms addr value : Handle}
    {s t : State} (h : runNode (storeNode n ms addr value) s = .next t) : NodeNext i s t := by
  obtain ⟨v, u, hv, rfl⟩ := runNode_next h
  obtain ⟨⟨k, rfl⟩, ⟨r, rfl⟩ | ⟨a, m, rfl⟩⟩ := storeNode_ok hv
  · exact ⟨_, _, .regs r hi, fun _ => masked_of k hn, rfl⟩
  · exact ⟨_, _, .mem a m n hi, fun _ => masked_of k hn, rfl⟩

theorem nodeNext_of_stateWrite {offset size value : Handle} {s t : State}
    (h : execIrStateWrite offset size value s = .next t) : NodeNext (.irStateWrite offset size value) s t := by
  obtain ⟨v, u, hrule, rfl⟩ := runNode_next h
  obtain ⟨o, _, ho, hrest⟩ := Exec.bind_ok hrule
  obtain ⟨rfl, -⟩ := irArg_ok ho
  obtain ⟨n, _, hn, hlast⟩ := Exec.bind_ok hrest
  obtain ⟨rfl, hn8⟩ := irSize_ok hn
  obtain ⟨x, _, hx, hend⟩ := Exec.bind_ok hlast
  obtain ⟨rfl, -⟩ := irArg_ok hx
  cases hend
  simp only [auxWrite_eq]
  exact ⟨_, _, .aux offset size value o.val.toNat x.val.toNat n rfl, fun _ => masked_of _ (by omega : 8 * n ≤ 64), rfl⟩

/-- The widths a Const can have (R121). -/
theorem constWidthOk_le : ∀ numBits : Byte, constWidthOk numBits = true → numBits.toNat ≤ 64 := by
  decide

/-- All a node can do when its op goes on. -/
theorem exec_node_next {i : Instr} {s t : State} (hi : isGuest i = false) (h : exec i s = .next t) : NodeNext i s t := by
  cases i with
  | irConst numBits isSigned value =>
    exact nodeNext_of_reads (.ite (fun hw => .pure fun _ => masked_of _ (constWidthOk_le numBits hw)) fun _ =>
      irFail_reads) h
  | irConst48 _ => exact nodeNext_of_reads irFail_reads h
  | irNot _ =>
    exact nodeNext_of_reads (.bind irArg_reads fun _ hx => .pure fun hm => masked_of _ (masked_wid (hx hm))) h
  | irAdd _ _ | irSub _ _ | irAnd _ _ | irOr _ _ | irXor _ _ => exact nodeNext_of_reads binaryNode_reads h
  | irShiftLeft _ _ | irShiftRight _ _ | irZext _ _ =>
    exact nodeNext_of_reads (.bind irArg_reads fun _ _ => .bind irConstArg_reads fun _ _ =>
      .ite (fun _ => irResult_reads) fun _ => irFail_reads) h
  | irCat _ _ =>
    exact nodeNext_of_reads (.bind irArg_reads fun _ _ => .bind irArg_reads fun _ _ => irResult_reads) h
  | irExtract _ _ _ =>
    exact nodeNext_of_reads (.bind irArg_reads fun _ _ => .bind irConstArg_reads fun _ _ =>
      .bind irConstArg_reads fun _ _ => .ite (fun _ => irResult_reads) fun _ => irFail_reads) h
  | irEq _ _ | irNeq _ _ =>
    exact nodeNext_of_reads (.bind irArg_reads fun _ _ => .bind irArg_reads fun _ _ =>
      .pure fun _ => masked_of _ (by decide)) h
  | irTernary _ _ _ =>
    refine nodeNext_of_reads (.bind irArg_reads fun _ _ => .bind irArg_reads fun x hx => .bind irArg_reads
      fun y hy => .pure ?_) h
    split
    · exact hx
    · exact hy
  | irMemState _ _ _ =>
    exact nodeNext_of_reads (.bind irConstArg_reads fun _ _ => .bind irArg_reads fun _ _ =>
      .bind irArg_reads fun _ _ => .ite (fun _ => .ite (fun _ => .pure fun _ => rfl) fun _ => irFail_reads)
        fun _ => irFail_reads) h
  | irAssert _ _ =>
    exact nodeNext_of_reads (.bind irArg_reads fun _ _ => .bind irArg_reads fun _ _ =>
      .ite (fun _ => .pure fun _ => rfl) fun _ => .error) h
  | irLoad8 _ _ | irLoad16 _ _ | irLoad32 _ _ | irLoad64 _ _ => exact nodeNext_of_reads (loadNode_reads (by decide)) h
  | irStore8 _ _ _ | irStore16 _ _ _ | irStore32 _ _ _ | irStore64 _ _ _ => exact nodeNext_of_store rfl (by decide) h
  | irStateRead _ _ =>
    exact nodeNext_of_reads (.bind irArg_reads fun _ _ => .bind irSize_reads fun n hn => .bind get_reads fun _ _ =>
      .pure fun _ => masked_of _ (by omega : 8 * n ≤ 64)) h
  | irStateWrite _ _ _ => exact nodeNext_of_stateWrite h
  | _ => cases hi

/-! ### The canonical form of memory (log 2) -/

theorem Memory.wf_storedAt {m : Memory} (ea : Ea) (w : Width) (v : Word16) (h : Memory.wf m = true) :
    Memory.wf (storedAt m ea w v) = true := by
  cases w
  · exact Memory.wf_write _ _ h
  · exact Memory.wf_write _ _ (Memory.wf_write _ _ h)

theorem Memory.wf_writtenBack {m : Memory} (ea : Ea) (w : Width) (v : Word16) (h : Memory.wf m = true) :
    Memory.wf (writtenBack m ea w v) = true := by
  cases w
  · exact Memory.wf_write _ _ h
  · exact Memory.wf_write _ _ (Memory.wf_write _ _ h)

theorem Memory.wf_pushedMem {m : Memory} (e : Bool) (sp : Word16) (bytes : List Byte) (h : Memory.wf m = true) :
    Memory.wf (pushedMem m e sp bytes) = true := by
  induction bytes generalizing sp m with
  | nil => exact h
  | cons b rest ih => exact ih _ (Memory.wf_write _ _ h)

theorem Pattern.wf_memory (p : Pattern) {s : State} (h : Memory.wf s.mem = true) : Memory.wf (p.memory s) = true := by
  cases p with
  | store _ _ => exact Memory.wf_storedAt _ _ _ h
  | rmwMem _ _ => exact Memory.wf_writtenBack _ _ _ h
  | push _ | jsr _ => exact Memory.wf_pushedMem _ _ _ h
  | _ => exact h

/-! ### The invariant -/

theorem inv_iff {s : State} :
    s.Inv ↔ (Memory.wf s.mem = true ∧ Memory.wf s.aux = true) ∧ s.valuesMasked = true ∧ s.vals.length ≤ s.arena.length := by
  simp [State.Inv, State.memoriesWf, State.insideArena]

theorem exec_guest_inv {i : Instr} {s t : State} (hi : isGuest i = true) (hs : s.Inv) (h : exec i s = .next t) : t.Inv := by
  obtain ⟨p, -, rfl⟩ := exec_guest_next hi h
  obtain ⟨⟨hmem, haux⟩, hvals, hlen⟩ := inv_iff.mp hs
  exact inv_iff.mpr ⟨⟨p.wf_memory hmem, haux⟩, hvals, hlen⟩

/-- An effect of a node keeps both memories canonical, and the values and the arena as they are. -/
theorem NodeEffect.inv {i : Instr} {s u : State} (h : NodeEffect i s u) (hs : s.Inv) :
    u.Inv ∧ u.vals = s.vals ∧ u.arena = s.arena := by
  refine ⟨?_, by cases h <;> rfl, by cases h <;> rfl⟩
  obtain ⟨⟨hmem, haux⟩, hrest⟩ := inv_iff.mp hs
  cases h with
  | none | regs => exact hs
  | mem => exact inv_iff.mpr ⟨⟨Memory.wf_storedLittle _ _ _ hmem, haux⟩, hrest⟩
  | aux => exact inv_iff.mpr ⟨⟨hmem, Memory.wf_auxStored _ _ _ haux⟩, hrest⟩

/-- A masked value may be appended as long as a node is pending. -/
theorem push_inv {s : State} {v : IrVal} (hs : s.Inv) (hv : v.masked = true) (hlen : s.vals.length < s.arena.length) :
    (s.push v).Inv := by
  obtain ⟨hmem, hvals, -⟩ := inv_iff.mp hs
  refine inv_iff.mpr ⟨hmem, ?_, ?_⟩
  · simpa [State.push, State.valuesMasked, hv] using hvals
  · simpa [State.push] using hlen

theorem decodeNode_not_guest {w : Node} {i : Instr} (h : decodeNode w = .ok i) : isGuest i = false := by
  unfold decodeNode at h
  split at h <;> cases h <;> rfl

theorem stepNode_next {w : Node} {s t : State} (h : stepNode w s = .next t) : ∃ i, isGuest i = false ∧ exec i s = .next t := by
  unfold stepNode at h
  split at h
  next i hd =>
    split at h
    · cases h
    · exact ⟨i, decodeNode_not_guest hd, h⟩
  · cases h

/-- Settles O44: a guest instruction changes guest memory only by writing bytes; a node writes bytes too, or none, and appends a
masked value where the arena has a node for it. -/
theorem stepKeepsInvariant : Obligations.StepKeepsInvariant := by
  intro s t hs h
  cases hp : s.pendingNode with
  | none =>
    obtain ⟨i, hi, hexec⟩ := step_next_guest hp h
    exact exec_guest_inv hi hs hexec
  | some w =>
    rw [step_of_pendingNode hp] at h
    obtain ⟨i, hi, hexec⟩ := stepNode_next h
    obtain ⟨u, v, heffect, hmasked, rfl⟩ := exec_node_next hi hexec
    obtain ⟨hu, hvals, harena⟩ := heffect.inv hs
    obtain ⟨hlen, -⟩ := List.getElem?_eq_some_iff.mp hp
    obtain ⟨-, hbefore, -⟩ := hs
    exact push_inv hu (hmasked hbefore) (by rwa [hvals, harena])

/-- Settles O57: each clause is read off what a node can do. -/
theorem irNodeFrame : Obligations.IrNodeFrame := by
  intro i s t hi h
  obtain ⟨u, v, heffect, -, rfl⟩ := exec_node_next hi h
  cases heffect with
  | none => exact ⟨⟨v, rfl⟩, rfl, rfl, rfl, rfl, fun _ => ⟨rfl, rfl⟩, .inl rfl, fun _ => rfl⟩
  | regs r hs => exact ⟨⟨v, rfl⟩, rfl, rfl, rfl, rfl, fun hn => absurd hs (by simp [hn]), .inr rfl, fun _ => rfl⟩
  | mem a k n hs => exact ⟨⟨v, rfl⟩, rfl, rfl, rfl, rfl, fun hn => absurd hs (by simp [hn]), .inl rfl, fun _ => rfl⟩
  | aux o size value a k n hw =>
    exact ⟨⟨v, rfl⟩, rfl, rfl, rfl, rfl, fun _ => ⟨rfl, rfl⟩, .inl rfl, fun hn => absurd hw (hn o size value)⟩

end Sys2Proof.Machine
end

section
/-! A node whose argument names no evaluated node (40_ir.md R142, R190): its op reads its arguments in order before it does
anything, so it fails with the state as it was. -/

namespace Sys2Proof.Machine

/-- Run from `s`, the computation fails with StructuralIRError and the state as it was. -/
def Exec.Structural {α : Type} (s : State) (x : Exec α) : Prop := ∃ why, x s = .error (.structuralIr s.vals.length why s) s

/-- Run from `s`, the computation goes on with the state as it was, or fails so. -/
def Exec.Checks {α : Type} (s : State) (x : Exec α) : Prop := (∃ a, x s = .ok a s) ∨ x.Structural s

/-- Run from `s`, the computation fails so if one of the handles has no value. -/
def Exec.Demands {α : Type} (s : State) (x : Exec α) (hs : List Handle) : Prop :=
  ∀ h ∈ hs, s.vals[h.toNat]? = none → x.Structural s

section Demands

variable {α β : Type} {s : State}

theorem Exec.Structural.bind {x : Exec α} (h : x.Structural s) (f : α → Exec β) : (x >>= f).Structural s := by
  obtain ⟨why, hx⟩ := h
  exact ⟨why, Exec.bind_of_error hx⟩

theorem Exec.Checks.bind {x : Exec α} {f : α → Exec β} (hx : x.Checks s) (hf : ∀ a, (f a).Checks s) : (x >>= f).Checks s := by
  obtain ⟨a, ha⟩ | hfail := hx
  · unfold Exec.Checks Exec.Structural
    rw [Exec.bind_of_ok ha]
    exact hf a
  · exact .inr (hfail.bind f)

theorem Exec.Checks.pure (a : α) : (Pure.pure a : Exec α).Checks s := .inl ⟨a, rfl⟩

theorem irFail_checks (why : IrReason) : (irFail why : Exec α).Checks s := .inr ⟨why, rfl⟩

theorem Exec.Checks.ite {p : Prop} [Decidable p] {x y : Exec α} (hx : x.Checks s) (hy : y.Checks s) :
    (if p then x else y).Checks s := by
  split
  · exact hx
  · exact hy

theorem get_checks : (get : Exec State).Checks s := .inl ⟨s, rfl⟩

theorem Exec.Demands.nil (x : Exec α) : x.Demands s [] := nofun

/-- An argument is read, then what follows demands the rest. -/
theorem Exec.Demands.bind {x : Exec α} {f : α → Exec β} {h : Handle} {hs : List Handle} (hx : x.Demands s [h]) (hc : x.Checks s)
    (hf : ∀ a, (f a).Demands s hs) : (x >>= f).Demands s (h :: hs) := by
  intro g hg hnone
  rcases List.mem_cons.mp hg with rfl | hrest
  · exact (hx g (List.mem_singleton.mpr rfl) hnone).bind f
  · obtain ⟨a, ha⟩ | hfail := hc
    · obtain ⟨why, hwhy⟩ := hf a g hrest hnone
      exact ⟨why, (Exec.bind_of_ok ha).trans hwhy⟩
    · exact hfail.bind f

theorem Exec.Demands.of_head {x : Exec α} {f : α → Exec β} {h : Handle} (hx : x.Demands s [h]) : (x >>= f).Demands s [h] :=
  fun g hg hnone => (hx g hg hnone).bind f

theorem irArg_demands (h : Handle) : (irArg h).Demands s [h] := by
  intro g hg hnone
  rw [List.mem_singleton.mp hg] at hnone
  exact ⟨_, irArg_none hnone⟩

theorem irArg_checks (h : Handle) : (irArg h).Checks s := by
  cases hv : s.vals[h.toNat]? with
  | none => exact .inr ⟨_, irArg_none hv⟩
  | some v => exact .inl ⟨v, irArg_some hv⟩

theorem irConstArg_demands (h : Handle) : (irConstArg h).Demands s [h] := Exec.Demands.of_head (irArg_demands h)

theorem irConstArg_checks (h : Handle) : (irConstArg h).Checks s :=
  (irArg_checks h).bind fun _ => get_checks.bind fun _ => .ite (.pure _) (irFail_checks _)

theorem irSize_demands (h : Handle) : (irSize h).Demands s [h] := Exec.Demands.of_head (irConstArg_demands h)

theorem irSize_checks (h : Handle) : (irSize h).Checks s :=
  (irConstArg_checks h).bind fun _ => .ite (.pure _) (irFail_checks _)

theorem irMemState_demands (ms : Handle) : (irMemState ms).Demands s [ms] := Exec.Demands.of_head (irArg_demands ms)

theorem irMemState_checks (ms : Handle) : (irMemState ms).Checks s := by
  refine (irArg_checks ms).bind fun _ => get_checks.bind fun t => ?_
  cases memStateHandles (nodeAt t ms) with
  | none => exact irFail_checks _
  | some p => exact (irArg_checks p.1).bind fun _ => (irArg_checks p.2).bind fun _ => .pure _

/-- Reading an argument, then what demands the rest. -/
theorem Exec.Demands.arg {f : IrVal → Exec β} {h : Handle} {hs : List Handle} (hf : ∀ v, (f v).Demands s hs) :
    (irArg h >>= f).Demands s (h :: hs) := .bind (irArg_demands h) (irArg_checks h) hf

theorem Exec.Demands.const {f : Nat → Exec β} {h : Handle} {hs : List Handle} (hf : ∀ n, (f n).Demands s hs) :
    (irConstArg h >>= f).Demands s (h :: hs) := .bind (irConstArg_demands h) (irConstArg_checks h) hf

theorem Exec.Demands.size {f : Nat → Exec β} {h : Handle} {hs : List Handle} (hf : ∀ n, (f n).Demands s hs) :
    (irSize h >>= f).Demands s (h :: hs) := .bind (irSize_demands h) (irSize_checks h) hf

theorem Exec.Demands.memState {f : Nat × Bool → Exec β} {h : Handle} {hs : List Handle} (hf : ∀ p, (f p).Demands s hs) :
    (irMemState h >>= f).Demands s (h :: hs) := .bind (irMemState_demands h) (irMemState_checks h) hf

end Demands

/-! ### The ops -/

theorem binaryNode_demands (s : State) (f : Nat → Nat → Nat → Nat) (a b : Handle) : (binaryNode f a b).Demands s [a, b] :=
  .arg fun _ => .arg fun _ => .nil _

theorem loadNode_demands (s : State) (n : Nat) (ms addr : Handle) : (loadNode n ms addr).Demands s [ms, addr] :=
  .memState fun _ => .arg fun _ => .nil _

theorem storeNode_demands (s : State) (n : Nat) (ms addr value : Handle) :
    (storeNode n ms addr value).Demands s [ms, addr, value] :=
  .memState fun _ => .arg fun _ => .arg fun _ => .nil _

/-- A node's meaning is a rule that demands every argument of its op. -/
theorem exec_demands (i : Instr) (s : State) (hne : irHandles i ≠ []) :
    ∃ rule : Exec IrVal, exec i s = runNode rule s ∧ rule.Demands s (irHandles i) := by
  cases i with
  | irNot a => exact ⟨_, rfl, .arg fun _ => .nil _⟩
  | irAdd _ _ | irSub _ _ | irAnd _ _ | irOr _ _ | irXor _ _ => exact ⟨_, rfl, binaryNode_demands s _ _ _⟩
  | irShiftLeft _ _ | irShiftRight _ _ | irZext _ _ => exact ⟨_, rfl, .arg fun _ => .const fun _ => .nil _⟩
  | irCat _ _ | irEq _ _ | irNeq _ _ | irAssert _ _ => exact ⟨_, rfl, .arg fun _ => .arg fun _ => .nil _⟩
  | irExtract _ _ _ => exact ⟨_, rfl, .arg fun _ => .const fun _ => .const fun _ => .nil _⟩
  | irTernary _ _ _ => exact ⟨_, rfl, .arg fun _ => .arg fun _ => .arg fun _ => .nil _⟩
  | irMemState _ _ _ => exact ⟨_, rfl, .const fun _ => .arg fun _ => .arg fun _ => .nil _⟩
  | irLoad8 _ _ | irLoad16 _ _ | irLoad32 _ _ | irLoad64 _ _ => exact ⟨_, rfl, loadNode_demands s _ _ _⟩
  | irStore8 _ _ _ | irStore16 _ _ _ | irStore32 _ _ _ | irStore64 _ _ _ => exact ⟨_, rfl, storeNode_demands s _ _ _ _⟩
  | irStateRead _ _ => exact ⟨_, rfl, .arg fun _ => .size fun _ => .nil _⟩
  | irStateWrite _ _ _ => exact ⟨_, rfl, .arg fun _ => .size fun _ => .arg fun _ => .nil _⟩
  | _ => exact absurd rfl hne

/-- Settles O56: every op demands its arguments. -/
theorem danglingHandleIsStructuralError : Obligations.DanglingHandleIsStructuralError := by
  intro i s h hmem hnone
  obtain ⟨rule, hexec, hdemands⟩ := exec_demands i s (List.ne_nil_of_mem hmem)
  obtain ⟨why, hwhy⟩ := hdemands h hmem hnone
  exact ⟨why, hexec.trans (runNode_error hwhy)⟩

end Sys2Proof.Machine
end

section
/-! The ops on values alone (40_ir.md R165 to R179, R184): arithmetic, logic, shifts, fields, compares and checks, each as the
number it gives. -/

namespace Sys2Proof.Machine

/-! ### Numbers at a width (R160, R165, R167) -/

/-- A number that fits its width is kept. -/
theorem IrVal.of_lt {w n : Nat} (h : n < 2 ^ w) : IrVal.of w n = { val := BitVec.ofNat 64 n, wid := w } := by
  rw [IrVal.of, Nat.mod_eq_of_lt h]

theorem masked_val {v : IrVal} (h : v.masked = true) : v.val.toNat < 2 ^ v.wid := by
  simp only [IrVal.masked, Bool.and_eq_true, decide_eq_true_eq] at h
  exact h.2

/-- Digits below their bounds make a number below the product of the bounds. -/
theorem mul_add_lt_mul {x p y q : Nat} (hx : x < p) (hy : y < q) : x * q + y < p * q :=
  calc
    x * q + y < x * q + q := Nat.add_lt_add_left hy _
    _ = (x + 1) * q := (Nat.succ_mul x q).symm
    _ ≤ p * q := Nat.mul_le_mul_right q hx

/-- The complement of 64 bits, masked, is the complement at the width. -/
theorem toNat_not_mod {w : Nat} (hw : w ≤ 64) {v : BitVec 64} (hv : v.toNat < 2 ^ w) :
    (~~~v).toNat % 2 ^ w = (2 ^ w - 1 - v.toNat) % 2 ^ w := by
  obtain ⟨q, hq⟩ := Nat.pow_dvd_pow 2 hw
  have hpos : 1 ≤ q := Nat.pos_of_ne_zero (by rintro rfl; simp at hq)
  have hsplit : 2 ^ w * q = 2 ^ w * (q - 1) + 2 ^ w := by rw [← Nat.mul_succ, Nat.succ_eq_add_one, Nat.sub_add_cancel hpos]
  have hnot : (~~~v).toNat = (2 ^ w - 1 - v.toNat) + 2 ^ w * (q - 1) := by
    rw [BitVec.toNat_not, hq, hsplit]
    omega
  rw [hnot, Nat.add_mul_mod_self_left]

/-- Adding the complement to 2^w subtracts modulo 2^w. -/
theorem sub_mod_two_pow (w x y : Nat) :
    (x + (2 ^ w - y % 2 ^ w)) % 2 ^ w = (((x : Int) - (y : Int)) % (2 ^ w : Int)).toNat % 2 ^ w := by
  have hpos : (0 : Int) < 2 ^ w := by positivity
  have hle : y % 2 ^ w ≤ 2 ^ w := (Nat.mod_lt y (Nat.two_pow_pos w)).le
  zify [hle]
  rw [Int.toNat_of_nonneg (Int.emod_nonneg _ hpos.ne'), Int.emod_emod, show (x : Int) + (2 ^ w - y % 2 ^ w) =
    x - y % 2 ^ w + 2 ^ w by ring, Int.add_emod_right, Int.sub_emod_emod]

/-! ### Rules whose arguments have values -/

section Rules

variable {s : State} {a b k : Handle} {x y : IrVal} {n : Nat}

theorem irArg_bind {β : Type} (hx : s.vals[a.toNat]? = some x) (f : IrVal → Exec β) : (irArg a >>= f) s = f x s :=
  Exec.bind_of_ok (irArg_some hx)

theorem irConstArg_bind {β : Type} (hk : s.constIs k n) (f : Nat → Exec β) : (irConstArg k >>= f) s = f n s :=
  Exec.bind_of_ok (irConstArg_is hk)

theorem binaryNode_some (f : Nat → Nat → Nat → Nat) (hx : s.vals[a.toNat]? = some x) (hy : s.vals[b.toNat]? = some y) :
    binaryNode f a b s = .ok (IrVal.of x.wid (f x.wid x.val.toNat y.val.toNat)) s := by
  rw [binaryNode, irArg_bind hx, irArg_bind hy]
  rfl

theorem irResult_le {w : Nat} (hw : w ≤ 64) (n : Nat) (s : State) : irResult w n s = .ok (IrVal.of w n) s := by
  rw [irResult, if_pos hw]
  rfl

/-- A result that fits its width is not changed by masking. -/
theorem irResult_fits {w n : Nat} (hw : w ≤ 64) (hn : n < 2 ^ w) (s : State) :
    irResult w n s = .ok { val := BitVec.ofNat 64 n, wid := w } s := by
  rw [irResult_le hw, IrVal.of_lt hn]

theorem irResult_gt {w : Nat} (hw : 64 < w) (n : Nat) (s : State) :
    irResult w n s = .error (.structuralIr s.vals.length .badWidth s) s := by
  rw [irResult, if_neg (Nat.not_le.mpr hw)]
  rfl

end Rules

/-- A rule that answers a value as it is written in the statement. -/
theorem runNode_value {rule : Exec IrVal} {s : State} {v out : IrVal} (h : rule s = .ok v s) (hout : v = out) :
    runNode rule s = .next (s.push out) := by
  rw [runNode_ok h, hout]

/-- Settles O48: each op is the rule on two values, its number read modulo 2^w. -/
theorem irArithmeticAndLogic : Obligations.IrArithmeticAndLogic := by
  intro a b s x y hx hy hmasked
  have hbinary (f : Nat → Nat → Nat → Nat) := runNode_ok (binaryNode_some f hx hy)
  have hvalue {n m : Nat} (h : n % 2 ^ x.wid = m % 2 ^ x.wid) : IrVal.of x.wid n = IrVal.of x.wid m := by
    rw [IrVal.of, IrVal.of, h]
  refine ⟨?_, hbinary _, ?_, hbinary _, hbinary _, hbinary _⟩
  · exact runNode_value (irArg_bind hx _) (hvalue (toNat_not_mod (masked_wid hmasked) (masked_val hmasked)))
  · exact runNode_value (binaryNode_some _ hx hy) (hvalue (sub_mod_two_pow _ _ _))

/-- Settles O49: a masked operand shifted, joined or widened fits the result's width, so masking it changes nothing. -/
theorem irShiftsAndFields : Obligations.IrShiftsAndFields := by
  intro a b k l s x y n q hx hy hmx hmy hk hl
  have hxlt := masked_val hmx
  have hylt := masked_val hmy
  have hxw := masked_wid hmx
  refine ⟨?_, ?_, ?_, ?_, ?_⟩
  · have hfit : x.val.toNat * 2 ^ n < 2 ^ (x.wid + n) := by
      rw [Nat.pow_add]
      exact Nat.mul_lt_mul_of_pos_right hxlt (Nat.two_pow_pos n)
    split
    next hw => exact runNode_ok (by rw [irArg_bind hx, irConstArg_bind hk, if_pos hw, irResult_fits hw hfit])
    next hw => exact runNode_error (t := s) (by rw [irArg_bind hx, irConstArg_bind hk, if_neg hw]; rfl)
  · split
    next hw =>
      have hfit : x.val.toNat / 2 ^ n < 2 ^ (x.wid - n) := by
        rwa [Nat.div_lt_iff_lt_mul (Nat.two_pow_pos n), ← Nat.pow_add, Nat.sub_add_cancel hw]
      exact runNode_ok (by rw [irArg_bind hx, irConstArg_bind hk, if_pos hw, irResult_fits (by omega) hfit])
    next hw => exact runNode_error (t := s) (by rw [irArg_bind hx, irConstArg_bind hk, if_neg hw]; rfl)
  · have hfit : x.val.toNat * 2 ^ y.wid + y.val.toNat < 2 ^ (x.wid + y.wid) := by
      rw [Nat.pow_add]
      exact mul_add_lt_mul hxlt hylt
    split
    next hw => exact runNode_ok (by rw [irArg_bind hx, irArg_bind hy, irResult_fits hw hfit])
    next hw => exact runNode_error (t := s) (by rw [irArg_bind hx, irArg_bind hy, irResult_gt (by omega)])
  · split
    next hw =>
      exact runNode_ok (v := .of q (x.val.toNat / 2 ^ n))
        (by rw [irArg_bind hx, irConstArg_bind hk, irConstArg_bind hl, if_pos hw, irResult_le (by omega)])
    next hw =>
      exact runNode_error (t := s) (by rw [irArg_bind hx, irConstArg_bind hk, irConstArg_bind hl, if_neg hw]; rfl)
  · split
    next hw => exact runNode_error (t := s) (by rw [irArg_bind hx, irConstArg_bind hk, if_neg (by omega)]; rfl)
    next hw =>
      have hfit : x.val.toNat < 2 ^ n := hxlt.trans_le (Nat.pow_le_pow_right (by decide) (by omega))
      split
      next hn => exact runNode_error (t := s) (by rw [irArg_bind hx, irConstArg_bind hk, if_pos (by omega), irResult_gt hn])
      next hn =>
        exact runNode_ok (by rw [irArg_bind hx, irConstArg_bind hk, if_pos (by omega), irResult_fits (by omega) hfit])

/-- Settles O50: the arguments have values, so each rule goes to its last line. -/
theorem irComparesSelectsAndChecks : Obligations.IrComparesSelectsAndChecks := by
  intro c a b k s q x y n hc ha hb hk
  refine ⟨?_, ?_, ?_, ?_, fun h => ?_, fun h => ?_⟩
  · refine runNode_ok ((irArg_bind ha _).trans ((irArg_bind hb _).trans ?_))
    by_cases h : x.val = y.val <;> simp [h, IrVal.of, bit]
  · refine runNode_ok ((irArg_bind ha _).trans ((irArg_bind hb _).trans ?_))
    by_cases h : x.val = y.val <;> simp [h, IrVal.of, bit]
  · refine runNode_ok ((irArg_bind hc _).trans ((irArg_bind ha _).trans ((irArg_bind hb _).trans ?_)))
    by_cases h : q.val = 0#64 <;> simp [h]
  · split
    next hbus => exact runNode_error (t := s) (by rw [irConstArg_bind hk, irArg_bind ha, irArg_bind hc, if_neg (by omega)]; rfl)
    next hbus =>
      split
      next hw =>
        exact runNode_ok (by rw [irConstArg_bind hk, irArg_bind ha, irArg_bind hc, if_pos (by omega), if_pos hw]; rfl)
      next hw =>
        exact runNode_error (t := s)
          (by rw [irConstArg_bind hk, irArg_bind ha, irArg_bind hc, if_pos (by omega), if_neg hw]; rfl)
  · exact runNode_ok ((irArg_bind ha _).trans ((irArg_bind hb _).trans (congrFun (if_pos (beq_iff_eq.mpr h)) s)))
  · exact runNode_error ((irArg_bind ha _).trans ((irArg_bind hb _).trans (congrFun (if_neg (mt beq_iff_eq.mp h)) s)))

end Sys2Proof.Machine
end

section
/-! The memory ops (40_ir.md R180 to R189): the two buses and the state namespace. -/

namespace Sys2Proof.Machine

/-! ### A load and a store by what their MemState node says (R180, R183, R185 to R188) -/

section Accesses

variable {s : State} {ms addr value : Handle} {x v : IrVal} {bus n : Nat}

theorem irMemState_bind {β : Type} {alive : Bool} (hms : s.memStateIs ms bus alive) (f : Nat × Bool → Exec β) :
    (irMemState ms >>= f) s = f (bus, alive) s :=
  Exec.bind_of_ok (irMemState_is hms)

theorem loadNode_dead (hms : s.memStateIs ms bus false) (hx : s.vals[addr.toNat]? = some x) :
    loadNode n ms addr s = .ok (.of (8 * n) 0) s :=
  (irMemState_bind hms _).trans ((irArg_bind hx _).trans rfl)

theorem loadNode_slot {w : Nat} (hms : s.memStateIs ms 0 true) (hx : s.vals[addr.toNat]? = some x)
    (hw : readSlot s.r x.val.toNat = some w) : loadNode n ms addr s = .ok (.of (8 * n) w) s := by
  refine (irMemState_bind hms _).trans ((irArg_bind hx _).trans ?_)
  simp [hw]

theorem loadNode_badRegister (hms : s.memStateIs ms 0 true) (hx : s.vals[addr.toNat]? = some x) (hslot : 18 < x.val.toNat) :
    loadNode n ms addr s = .error (.structuralIr s.vals.length .badRegister s) s := by
  refine (irMemState_bind hms _).trans ((irArg_bind hx _).trans ?_)
  simp [(no_slot_above hslot s.r 0).2, irFail]

theorem loadNode_memory (hms : s.memStateIs ms 1 true) (hx : s.vals[addr.toNat]? = some x) :
    loadNode n ms addr s =
      (do let w ← loadBytes (BitVec.ofNat 24 x.val.toNat) n; pure (.of (8 * n) w) : Exec IrVal) s :=
  (irMemState_bind hms _).trans ((irArg_bind hx _).trans rfl)

theorem storeNode_dead (hms : s.memStateIs ms bus false) (hx : s.vals[addr.toNat]? = some x)
    (hv : s.vals[value.toNat]? = some v) : storeNode n ms addr value s = .ok (.of (8 * n) v.val.toNat) s :=
  (irMemState_bind hms _).trans ((irArg_bind hx _).trans ((irArg_bind hv _).trans rfl))

theorem storeNode_slot {r : Regs} (hms : s.memStateIs ms 0 true) (hx : s.vals[addr.toNat]? = some x)
    (hv : s.vals[value.toNat]? = some v) (hr : writeSlot s.r x.val.toNat v.val.toNat = some r) :
    storeNode n ms addr value s = .ok (.of (8 * n) v.val.toNat) { s with r := r } := by
  refine (irMemState_bind hms _).trans ((irArg_bind hx _).trans ((irArg_bind hv _).trans ?_))
  simp [hr]

theorem storeNode_badRegister (hms : s.memStateIs ms 0 true) (hx : s.vals[addr.toNat]? = some x)
    (hv : s.vals[value.toNat]? = some v) (hslot : 18 < x.val.toNat) :
    storeNode n ms addr value s = .error (.structuralIr s.vals.length .badRegister s) s := by
  refine (irMemState_bind hms _).trans ((irArg_bind hx _).trans ((irArg_bind hv _).trans ?_))
  simp [(no_slot_above hslot s.r v.val.toNat).1, irFail]

theorem storeNode_memory (hms : s.memStateIs ms 1 true) (hx : s.vals[addr.toNat]? = some x)
    (hv : s.vals[value.toNat]? = some v) :
    storeNode n ms addr value s =
      (do storeBytes (BitVec.ofNat 24 x.val.toNat) v.val.toNat n; pure (.of (8 * n) v.val.toNat) : Exec IrVal) s :=
  (irMemState_bind hms _).trans ((irArg_bind hx _).trans ((irArg_bind hv _).trans rfl))

end Accesses

theorem exec_loadForm {p : Nat × (Handle → Handle → Instr)} (hp : p ∈ loadForm) (ms addr : Handle) (s : State) :
    exec (p.2 ms addr) s = runNode (loadNode p.1 ms addr) s := by
  fin_cases hp <;> rfl

theorem exec_storeForm {p : Nat × (Handle → Handle → Handle → Instr)} (hp : p ∈ storeForm) (ms addr value : Handle)
    (s : State) : exec (p.2 ms addr value) s = runNode (storeNode p.1 ms addr value) s := by
  fin_cases hp <;> rfl

/-- Settles O51: the clauses are the branches of the rule. -/
theorem irLoads : Obligations.IrLoads := by
  intro p hp ms addr s x hx
  rw [exec_loadForm hp]
  refine ⟨fun bus hms => runNode_ok (loadNode_dead hms hx), fun v hms hv => runNode_ok (loadNode_slot hms hx hv),
    fun hms hslot => runNode_error (loadNode_badRegister hms hx hslot), fun hms hfull => runNode_ok ?_⟩
  rw [loadNode_memory hms hx, Exec.bind_apply, loadBytes_full _ _ hfull]
  rfl

/-- Settles O52: the clauses are the branches of the rule. (The model's `irStores` has the name the obligation would give.) -/
theorem irStoreNodes : Obligations.IrStores := by
  intro p hp ms addr value s x v hx hv
  rw [exec_storeForm hp]
  refine ⟨fun bus hms => runNode_ok (storeNode_dead hms hx hv), fun r hms hr => runNode_ok (storeNode_slot hms hx hv hr),
    fun hms hslot => runNode_error (storeNode_badRegister hms hx hv hslot), fun hms hfull => runNode_ok ?_⟩
  rw [storeNode_memory hms hx hv, Exec.bind_apply, storeBytes_full _ _ _ hfull]
  rfl

/-! ### A load of what was stored (R187) -/

theorem two_pow_bytes (n : Nat) : 2 ^ (8 * n) = 256 ^ n := by rw [Nat.pow_mul]

/-- Addresses less than 2^24 apart differ. -/
theorem addr_add_inj {a : Addr} {j k : Nat} (hj : j < 2 ^ 24) (hk : k < 2 ^ 24)
    (h : a + BitVec.ofNat 24 j = a + BitVec.ofNat 24 k) : j = k := by
  have hsame := congrArg BitVec.toNat ((BitVec.add_right_inj a).mp h)
  rwa [BitVec.toNat_ofNat, BitVec.toNat_ofNat, Nat.mod_eq_of_lt hj, Nat.mod_eq_of_lt hk] at hsame

theorem byteAt_storedLittle (mem : Memory) (a : Addr) (v : Nat) {n k : Nat} (hn : n ≤ 2 ^ 24) (hk : k < n) :
    byteAt (storedLittle mem a v n) (a + BitVec.ofNat 24 k) = BitVec.ofNat 8 (v / 256 ^ k) := by
  induction n with
  | zero => omega
  | succ n ih =>
    rw [storedLittle, byteAt_write]
    split
    next h => rw [addr_add_inj (by omega) (by omega) h]
    next h => exact ih (by omega) (Nat.lt_of_le_of_ne (by omega) (by rintro rfl; exact h rfl))

theorem byteAt_storedLittle_other (mem : Memory) {a b : Addr} (v : Nat) {n : Nat}
    (hb : ∀ k, k < n → b ≠ a + BitVec.ofNat 24 k) : byteAt (storedLittle mem a v n) b = byteAt mem b := by
  induction n with
  | zero => rfl
  | succ n ih =>
    rw [storedLittle, byteAt_write, if_neg (Ne.symm (hb n (by omega)))]
    exact ih fun k hk => hb k (by omega)

/-- Bytes that are those of a number put it together again, modulo their width. -/
theorem littleEndian_of_bytes {mem : Memory} {a : Addr} {v n : Nat}
    (h : ∀ k, k < n → byteAt mem (a + BitVec.ofNat 24 k) = BitVec.ofNat 8 (v / 256 ^ k)) :
    littleEndian mem a n = v % 256 ^ n := by
  induction n with
  | zero => rw [littleEndian, Nat.pow_zero, Nat.mod_one]
  | succ n ih =>
    rw [littleEndian, ih fun k hk => h k (by omega), h n (by omega), BitVec.toNat_ofNat, pow_succ 256 n, Nat.mod_mul]

/-! ### Values and nodes stay as the value array grows (R160) -/

theorem getElem?_append_some {α : Type} {l r : List α} {i : Nat} {v : α} (h : l[i]? = some v) : (l ++ r)[i]? = some v := by
  rw [List.getElem?_append_left (List.getElem?_eq_some_iff.mp h).1, h]

theorem State.memStateIs.push {s t : State} {ms : Handle} {bus : Nat} {alive : Bool} {v : IrVal}
    (h : s.memStateIs ms bus alive) (harena : t.arena = s.arena) (hvals : t.vals = s.vals ++ [v]) :
    t.memStateIs ms bus alive := by
  obtain ⟨b, c, l, own, bv, lv, hnode, hown, hb, hbus, hl, halive⟩ := h
  have hget {i : Nat} {w : IrVal} (hw : s.vals[i]? = some w) : t.vals[i]? = some w := by
    rw [hvals]
    exact getElem?_append_some hw
  refine ⟨b, c, l, own, bv, lv, ?_, hget hown, hget hb, hbus, hget hl, halive⟩
  rw [← hnode, nodeAt, nodeAt, harena]

/-- The two forms of one width, at most eight bytes. -/
theorem mem_storeForm_zip_loadForm {p : (Nat × (Handle → Handle → Handle → Instr)) × Nat × (Handle → Handle → Instr)}
    (hp : p ∈ storeForm.zip loadForm) : p.1 ∈ storeForm ∧ p.2 ∈ loadForm ∧ p.2.1 = p.1.1 ∧ p.1.1 ≤ 8 := by
  obtain ⟨hstore, hload⟩ := List.of_mem_zip hp
  refine ⟨hstore, hload, ?_⟩
  fin_cases hp <;> decide

/-- A load on bus 1 of bytes that are those of a number gives the number, modulo its width. -/
theorem exec_load_of_bytes {p : Nat × (Handle → Handle → Instr)} {ms addr : Handle} {t : State} {x : IrVal} {n v : Nat}
    (hp : p ∈ loadForm) (hn : p.1 = n) (hms : t.memStateIs ms 1 true) (hfull : t.fullMemory)
    (hx : t.vals[addr.toNat]? = some x)
    (hbyte : ∀ k, k < n → byteAt t.mem (BitVec.ofNat 24 x.val.toNat + BitVec.ofNat 24 k) = BitVec.ofNat 8 (v / 256 ^ k)) :
    exec (p.2 ms addr) t = .next (t.push { val := BitVec.ofNat 64 (v % 2 ^ (8 * n)), wid := 8 * n }) := by
  subst hn
  obtain ⟨-, -, -, hload⟩ := irLoads p hp ms addr t x hx
  have hvalue : littleEndian t.mem (BitVec.ofNat 24 x.val.toNat) p.1 % 2 ^ (8 * p.1) = v % 2 ^ (8 * p.1) := by
    rw [littleEndian_of_bytes hbyte, two_pow_bytes, Nat.mod_mod]
  simpa only [hvalue] using hload hms hfull

/-- Settles O53: the store leaves the bytes of the value, from which the load puts it together. -/
theorem wideAccessesRoundTrip : Obligations.WideAccessesRoundTrip := by
  intro p hp ms addr value s x v hfull hms hx hv n a
  obtain ⟨hstore, hload, hwidth, hsize⟩ := mem_storeForm_zip_loadForm hp
  obtain ⟨-, -, -, hstored⟩ := irStoreNodes p.1 hstore ms addr value s x v hx hv
  have hbyte (k : Nat) (hk : k < n) := byteAt_storedLittle s.mem a v.val.toNat (hsize.trans (by decide)) hk
  refine ⟨_, hstored hms hfull, ?_, hbyte, fun b hb => byteAt_storedLittle_other s.mem v.val.toNat hb⟩
  exact exec_load_of_bytes hload hwidth (hms.push rfl rfl) hfull (getElem?_append_some hx) hbyte

/-! ### The state namespace (R181, R182) -/

theorem auxLittle_lt (mem : Memory) (a n : Nat) : auxLittle mem a n < 256 ^ n := by
  induction n with
  | zero => exact Nat.one_pos
  | succ n ih =>
    have hbyte := (Memory.read mem (a + n)).isLt
    rw [auxLittle, Nat.add_comm, Nat.mul_comm, pow_succ', show 256 = 2 ^ 8 from rfl]
    exact mul_add_lt_mul hbyte ih

theorem irSize_bind {β : Type} {s : State} {size : Handle} {n : Nat} (hsize : s.constIs size n) (hn : n ≤ 8)
    (f : Nat → Exec β) : (irSize size >>= f) s = f n s := by
  refine Exec.bind_of_ok ?_
  rw [irSize, irConstArg_bind hsize, if_pos hn]
  rfl

/-- Settles O55: with its arguments read, each op is an access of the state namespace. -/
theorem irStateSpace : Obligations.IrStateSpace := by
  intro offset size value s o v n ho hv hsize hn
  refine ⟨?_, ?_, ?_⟩
  · have hlt : auxLittle s.aux o.val.toNat n < 2 ^ (8 * n) := by
      rw [two_pow_bytes]
      exact auxLittle_lt _ _ _
    refine runNode_value ((irArg_bind ho _).trans (irSize_bind hsize hn _)) ?_
    rw [auxRead_eq]
    exact IrVal.of_lt hlt
  · refine runNode_ok ((irArg_bind ho _).trans ((irSize_bind hsize hn _).trans ((irArg_bind hv _).trans ?_)))
    rw [← auxWrite_eq]
    rfl
  · rw [two_pow_bytes]
    exact auxLittle_auxStored _ _ _ _

end Sys2Proof.Machine
end

section
/-! Stack, pointer and node accesses out of range (60_exceptions.md R504, R505): the first byte in bus order at or above
P_MEM_BYTES stops the instruction, with what was done before it kept. -/

namespace Sys2Proof.Machine

/-! ### Stopping -/

/-- What an access out of range answers in state `u`: nothing of it has happened (R505). -/
def stopAt {α : Type} (a : Addr) (access : Access) (u : State) : EStateM.Result Fault State α :=
  .error (.outOfRangeMemory a access u) u

/-- Of accesses at these addresses in order, the first out of range is the `k`-th, counted from 0. -/
def State.StopsAt (s : State) (addr : Nat → Addr) (k : Nat) : Prop :=
  (∀ j, j < k → (addr j).toNat < s.cfg.memBytes) ∧ s.cfg.memBytes ≤ (addr k).toNat

theorem runGuest_stop {n : Nat} {body : Exec Unit} {s u : State} {a : Addr} {access : Access}
    (h : body { s with r := s.r.fetched n, ending := false } = stopAt a access u) :
    runGuest n body s = .fault (.outOfRangeMemory a access u) := runGuest_error h

/-! ### Pushes (R289, R291) -/

/-- Where the `k`-th byte of a push goes, counted from 0. -/
def State.pushAddr (s : State) (k : Nat) : Addr := mkAddr 0x00#8 (pushedS s.r.e s.r.s k)

/-- A 16-bit push stops at its `k`-th byte with the byte before it pushed. -/
theorem push16_out {s : State} (v : Word16) {k : Nat} (hk : k < 2) (h : s.StopsAt s.pushAddr k) :
    push16 v s = stopAt (s.pushAddr k) .write
      { s with
        r := { s.r.tick k with s := pushedS s.r.e s.r.s k }
        mem := pushedMem s.mem s.r.e s.r.s ([hi8 v, lo8 v].take k) } := by
  obtain ⟨hin, hout⟩ := h
  match k with
  | 0 =>
    rw [Regs.tick_zero]
    exact Exec.bind_of_error (push8_out _ hout)
  | 1 =>
    refine (Exec.bind_of_ok (push8_in _ (hin 0 Nat.one_pos))).trans ?_
    exact push8_out _ hout

/-- The internal cycle before a push. -/
theorem io_fetched (n : Nat) (s : State) :
    io { s with r := s.r.fetched n, ending := false } = .ok () { s with r := s.r.passed n (n + 1), ending := false } := by
  rw [io_apply, Regs.fetched_tick]

theorem execJsr_out {s : State} {k : Nat} (a : Word16) (hk : k < 2) (h : s.StopsAt s.pushAddr k) :
    execJsrAbs a s = .fault (.outOfRangeMemory (s.pushAddr k) .write
      { s with
        r := { s.r.passed 3 (4 + k) with s := pushedS s.r.e s.r.s k }
        mem := pushedMem s.mem s.r.e s.r.s ([hi8 (s.r.pc + 2#16), lo8 (s.r.pc + 2#16)].take k)
        ending := false }) := by
  have hreturn : s.r.pc + 3#16 - 1#16 = s.r.pc + 2#16 := by bv_omega
  have hpush := push16_out (s := { s with r := s.r.passed 3 4, ending := false }) (s.r.pc + 2#16) hk h
  rw [Regs.passed_tick, ← hreturn] at hpush
  rw [← hreturn]
  exact runGuest_stop ((Exec.bind_of_ok (io_fetched 3 s)).trans ((Exec.bind_of_ok rfl).trans (Exec.bind_of_error hpush)))

/-! ### Pulls (R290, R291) -/

/-- Where the `k`-th byte of a pull comes from, counted from 0. -/
def State.pullAddr (s : State) (k : Nat) : Addr := mkAddr 0x00#8 (pulledS s.r.e s.r.s (k + 1))

/-- The state as the `k`-th pull from here stops: `k` bytes are pulled, and S is stepped once more (log 7). -/
def State.pulling (s : State) (k : Nat) : State := { s with r := { s.r.tick k with s := pulledS s.r.e s.r.s (k + 1) } }

theorem pull8_stop {s : State} (h : s.StopsAt s.pullAddr 0) : pull8 s = stopAt (s.pullAddr 0) .read (s.pulling 0) := by
  obtain ⟨-, hout⟩ := h
  rw [State.pulling, Regs.tick_zero]
  exact pull8_out hout

theorem pull16_stop {s : State} {k : Nat} (hk : k < 2) (h : s.StopsAt s.pullAddr k) :
    pull16 s = stopAt (s.pullAddr k) .read (s.pulling k) := by
  match k with
  | 0 => exact Exec.bind_of_error (pull8_stop h)
  | 1 =>
    obtain ⟨hin, hout⟩ := h
    refine (Exec.bind_of_ok (pull8_in (hin 0 Nat.one_pos))).trans ?_
    exact Exec.bind_of_error (pull8_out hout)

/-- The state after two pulls from here. -/
def State.pulledTwice (s : State) : State := { s with r := { s.r.tick 2 with s := pulledS s.r.e s.r.s 2 } }

theorem pull16_in {s : State} (hin : ∀ j, j < 2 → (s.pullAddr j).toNat < s.cfg.memBytes) :
    pull16 s = .ok (cat16 (pulledByte s.mem s.r.e s.r.s 2) (pulledByte s.mem s.r.e s.r.s 1)) s.pulledTwice := by
  refine (Exec.bind_of_ok (pull8_in (hin 0 Nat.two_pos))).trans ?_
  refine (Exec.bind_of_ok (pull8_in ?_)).trans ?_
  · exact hin 1 Nat.one_lt_two
  · rw [State.pulledTwice, ← Regs.tick_tick 1 1]
    rfl

/-- A third pull stops. -/
theorem pull8_pulledTwice_stop {s : State} (h : s.StopsAt s.pullAddr 2) :
    pull8 s.pulledTwice = stopAt (s.pullAddr 2) .read (s.pulling 2) := by
  obtain ⟨-, hout⟩ := h
  exact pull8_out hout

section Pulls

variable {s : State} {k : Nat}

/-- The state of a pull instruction before its first pull: one byte fetched, two internal cycles. -/
def State.beforePulls (s : State) : State := { s with r := s.r.passed 1 3, ending := false }

/-- The state after the first pull, `r` being the registers with what that pull wrote. -/
def State.afterFirstPull (s : State) (r : Regs) : State :=
  { s with r := { r.passed 1 4 with s := pulledS s.r.e s.r.s 1 }, ending := false }

/-- The state as the `k`-th pull of the instruction stops, `r` being the registers with what the pulls before it wrote. -/
def State.atPull (s : State) (k : Nat) (r : Regs) : State :=
  { s with r := { r.passed 1 (3 + k) with s := pulledS s.r.e s.r.s (k + 1) }, ending := false }

theorem twoCycles_fetched (s : State) :
    modR (Regs.tick 2) { s with r := s.r.fetched 1, ending := false } = .ok () s.beforePulls := by
  rw [modR_apply, Regs.fetched_tick]
  rfl

theorem pulling_beforePulls (s : State) (k : Nat) : s.beforePulls.pulling k = s.atPull k s.r := by
  rw [State.atPull, ← Regs.passed_tick]
  rfl

theorem pulledS_afterFirstPull {r : Regs} (he : r.e = s.r.e) (k : Nat) :
    pulledS (s.afterFirstPull r).r.e (s.afterFirstPull r).r.s k = pulledS s.r.e s.r.s (k + 1) := by
  rw [show (s.afterFirstPull r).r.e = s.r.e from he]
  rfl

theorem pulling_afterFirstPull {r : Regs} (he : r.e = s.r.e) (k : Nat) :
    (s.afterFirstPull r).pulling k = s.atPull (k + 1) r := by
  rw [State.pulling, pulledS_afterFirstPull he, State.atPull, show 3 + (k + 1) = 4 + k by omega, ← Regs.passed_tick]
  rfl

theorem pullAddr_afterFirstPull {r : Regs} (he : r.e = s.r.e) (k : Nat) :
    (s.afterFirstPull r).pullAddr k = s.pullAddr (k + 1) :=
  congrArg (mkAddr 0x00#8) (pulledS_afterFirstPull he (k + 1))

theorem State.StopsAt.afterFirstPull {r : Regs} (he : r.e = s.r.e) (h : s.StopsAt s.pullAddr (k + 1)) :
    (s.afterFirstPull r).StopsAt (s.afterFirstPull r).pullAddr k := by
  obtain ⟨hin, hout⟩ := h
  refine ⟨fun j hj => ?_, ?_⟩ <;> rw [pullAddr_afterFirstPull he]
  · exact hin (j + 1) (Nat.succ_lt_succ hj)
  · exact hout

/-- The first pull reads the byte and steps S. -/
theorem pull8_beforePulls (h : (s.pullAddr 0).toNat < s.cfg.memBytes) :
    pull8 s.beforePulls = .ok (pulledByte s.mem s.r.e s.r.s 1) (s.afterFirstPull s.r) := by
  have hpull := pull8_in (s := { s with r := s.r.passed 1 3, ending := false }) h
  rwa [Regs.passed_tick] at hpull

theorem pull8_beforePulls_stop (h : s.StopsAt s.pullAddr 0) :
    pull8 s.beforePulls = stopAt (s.pullAddr 0) .read (s.atPull 0 s.r) := by
  rw [← pulling_beforePulls]
  exact pull8_stop (s := s.beforePulls) h

theorem pull8_afterFirstPull_stop {r : Regs} (he : r.e = s.r.e) (h : s.StopsAt s.pullAddr 1) :
    pull8 (s.afterFirstPull r) = stopAt (s.pullAddr 1) .read (s.atPull 1 r) := by
  rw [← pulling_afterFirstPull he, ← pullAddr_afterFirstPull he]
  exact pull8_stop (h.afterFirstPull he)

theorem pull16_afterFirstPull_stop {r : Regs} (he : r.e = s.r.e) (hk : k < 2) (h : s.StopsAt s.pullAddr (k + 1)) :
    pull16 (s.afterFirstPull r) = stopAt (s.pullAddr (k + 1)) .read (s.atPull (k + 1) r) := by
  rw [← pulling_afterFirstPull he, ← pullAddr_afterFirstPull he]
  exact pull16_stop hk (h.afterFirstPull he)

theorem pull8_third_stop {r : Regs} (he : r.e = s.r.e) (h : s.StopsAt s.pullAddr 3) :
    pull8 (s.afterFirstPull r).pulledTwice = stopAt (s.pullAddr 3) .read (s.atPull 3 r) := by
  rw [← pulling_afterFirstPull he, ← pullAddr_afterFirstPull he]
  exact pull8_pulledTwice_stop (h.afterFirstPull he)

theorem execRts_out (hk : k < 2) (h : s.StopsAt s.pullAddr k) :
    execRts s = .fault (.outOfRangeMemory (s.pullAddr k) .read (s.atPull k s.r)) := by
  have hpull := pull16_stop (s := s.beforePulls) hk h
  rw [pulling_beforePulls] at hpull
  exact runGuest_stop ((Exec.bind_of_ok (twoCycles_fetched s)).trans (Exec.bind_of_error hpull))

theorem Width.lt_bytes {w : Width} (h : k < w.bytes) : k = 0 ∨ k = 1 ∧ w = .w16 := by
  cases w with
  | w8 => exact .inl (Nat.lt_one_iff.mp h)
  | w16 => exact (Nat.le_one_iff_eq_zero_or_eq_one.mp (Nat.le_of_lt_succ h)).imp_right fun h1 => ⟨h1, rfl⟩

/-- PLA has put the byte of its first pull in A when the second stops (R442). -/
theorem execPla_out (hk : k < (widthA s.r).bytes) (h : s.StopsAt s.pullAddr k) :
    execPla s = .fault (.outOfRangeMemory (s.pullAddr k) .read
      (s.atPull k (if k = 1 then { s.r with a := pulledByte s.mem s.r.e s.r.s 1 } else s.r))) := by
  refine runGuest_stop ((Exec.bind_of_ok (twoCycles_fetched s)).trans ?_)
  obtain rfl | ⟨rfl, hw⟩ := Width.lt_bytes hk
  · exact Exec.bind_of_error (pull8_beforePulls_stop h)
  · let q : Regs := { s.r with a := pulledByte s.mem s.r.e s.r.s 1 }
    refine (Exec.bind_of_ok (pull8_beforePulls (h.1 0 Nat.one_pos))).trans
      ((Exec.bind_of_ok (t := s.afterFirstPull q) rfl).trans ((Exec.bind_of_ok (readR_apply _)).trans ?_))
    rw [show widthA (s.afterFirstPull q).r = .w16 from hw]
    exact Exec.bind_of_error (pull8_afterFirstPull_stop rfl h)

/-- RTI has unpacked P when a later pull stops, and has not written PC when the pull of PBR does (R475). -/
theorem execRti_out (hk : k < if s.r.e then 3 else 4) (h : s.StopsAt s.pullAddr k) :
    execRti s = .fault (.outOfRangeMemory (s.pullAddr k) .read
      (s.atPull k (if k = 0 then s.r else unpackFlags (pulledByte s.mem s.r.e s.r.s 1) s.r))) := by
  refine runGuest_stop ((Exec.bind_of_ok (twoCycles_fetched s)).trans ?_)
  cases k with
  | zero => exact Exec.bind_of_error (pull8_beforePulls_stop h)
  | succ k =>
    let q : Regs := unpackFlags (pulledByte s.mem s.r.e s.r.s 1) s.r
    refine (Exec.bind_of_ok (pull8_beforePulls (h.1 0 k.succ_pos))).trans
      ((Exec.bind_of_ok (t := s.afterFirstPull q) rfl).trans ?_)
    by_cases hk2 : k < 2
    · exact Exec.bind_of_error (pull16_afterFirstPull_stop rfl hk2 h)
    · have he : s.r.e ≠ true := by
        intro he
        rw [if_pos he] at hk
        omega
      have hk3 : k = 2 := by
        rw [if_neg he] at hk
        omega
      subst hk3
      have hpc := pull16_in (s := s.afterFirstPull q) (h.afterFirstPull rfl).1
      exact (Exec.bind_of_ok hpc).trans ((Exec.bind_of_ok (readR_apply _)).trans
        ((congrFun (if_neg he) _).trans (Exec.bind_of_error (pull8_third_stop rfl h))))

end Pulls

/-! ### The pointer of JMP (a) (R472) -/

theorem execJmpAbsInd_out {s : State} {k : Nat} {a : Word16} {b : Addr}
    (h : s.firstOut [(0, mkAddr 0x00#8 a), (1, mkAddr 0x00#8 (wrapAdd a 1#16 s.r.e))] = some (k, b)) :
    execJmpAbsInd a s = .fault (.outOfRangeMemory b .read { s with r := s.r.passed 3 (3 + k), ending := false }) := by
  refine runGuest_stop (Exec.bind_of_error ?_)
  obtain ⟨h0, rfl, rfl⟩ | ⟨h0, h⟩ := State.firstOut_cons h
  · exact readPtr16_out0 h0
  · obtain ⟨h1, rfl, rfl⟩ | ⟨-, h⟩ := State.firstOut_cons h
    · rw [← Regs.passed_tick]
      exact readPtr16_out1 (s := { s with r := s.r.fetched 3, ending := false }) h0 h1
    · cases h

/-! ### The pattern of a stack instruction (R440 to R454) -/

theorem pushOrder_loadIdx (i : Idx) (r : Regs) : pushOrder (widthX r) (loadIdx i r) = pushOrder (widthX r) (i.raw r) := by
  unfold widthX widthOf loadIdx
  cases r.xf <;> simp [pushOrder]

theorem PushOp.width_passed (op : PushOp) (n k : Nat) (r : Regs) : op.width (r.passed n k) = op.width r := by
  cases op <;> rfl

theorem PushOp.value_passed (op : PushOp) (n k : Nat) (r : Regs) : op.value (r.passed n k) = op.value r := by
  cases op with
  | x | y => exact loadIdx_passed _ _ _ _
  | _ => rfl

theorem PullOp.width_passed (op : PullOp) (n k : Nat) (r : Regs) : op.width (r.passed n k) = op.width r := by
  cases op <;> rfl

/-- A push form pushes the bytes of its pattern; under X_flag the two differ in a high byte that is not pushed. -/
theorem patternOf_pushForm {p : Instr × (Regs → Width) × (Regs → Word16)} (hp : p ∈ pushForms) :
    ∃ op : PushOp, patternOf p.1 = some (.push op) ∧ op.width = p.2.1 ∧
      ∀ r, pushOrder (p.2.1 r) (op.value r) = pushOrder (p.2.1 r) (p.2.2 r) := by
  fin_cases hp
  · exact ⟨.a, rfl, rfl, fun _ => rfl⟩
  · exact ⟨.x, rfl, rfl, pushOrder_loadIdx .x⟩
  · exact ⟨.y, rfl, rfl, pushOrder_loadIdx .y⟩
  · exact ⟨.p, rfl, rfl, fun _ => rfl⟩
  · exact ⟨.d, rfl, rfl, fun _ => rfl⟩
  · exact ⟨.k, rfl, rfl, fun _ => rfl⟩
  · exact ⟨.b, rfl, rfl, fun _ => rfl⟩

theorem patternOf_pullForm {p : Instr × (Regs → Width) × (Word16 → Regs → Regs)} (hp : p ∈ pullForms) :
    (p.1 = .pla ∧ p.2.1 = widthA) ∨ p.1 ≠ .pla ∧ ∃ op : PullOp, patternOf p.1 = some (.pull op) ∧ op.width = p.2.1 := by
  fin_cases hp
  · exact .inl ⟨rfl, rfl⟩
  · exact .inr ⟨nofun, .x, rfl, rfl⟩
  · exact .inr ⟨nofun, .y, rfl, rfl⟩
  · exact .inr ⟨nofun, .p, rfl, rfl⟩
  · exact .inr ⟨nofun, .d, rfl, rfl⟩
  · exact .inr ⟨nofun, .b, rfl, rfl⟩

/-- Settles O60: form by form, the access that stops is the one the shared operations stop at. -/
theorem stackPointerAndNodeAccessesOutOfRangeFault : Obligations.StackPointerAndNodeAccessesOutOfRangeFault := by
  intro s
  refine ⟨fun p hp k hk h => ?_, fun a k hk h => execJsr_out a hk h, fun p hp k hk h => ?_, fun k hk h => execRts_out hk h,
    fun k hk h => execRti_out hk h, fun a k b h => execJmpAbsInd_out h,
    fun ms addr value x v k hms hx hv hin hout => ⟨fun p hp hk => ?_, fun p hp hk => ?_⟩⟩
  · obtain ⟨op, hpattern, hwidth, hbytes⟩ := patternOf_pushForm hp
    rw [exec_patternOf hpattern, ← hbytes s.r]
    rw [← hwidth] at hk ⊢
    exact pushAt_out op.width op.value (fun n k => op.width_passed n k s.r) (fun n k => op.value_passed n k s.r) hk h.1 h.2
  · obtain ⟨hpla, hwidth⟩ | ⟨hpla, op, hpattern, hwidth⟩ := patternOf_pullForm hp
    · rw [hwidth] at hk
      simp only [hpla, true_and]
      exact execPla_out hk h
    · rw [← hwidth] at hk
      simp only [hpla, false_and, if_false, exec_patternOf hpattern]
      exact pullAt_out op.width op.effect (fun n k => op.width_passed n k s.r) hk h.1 h.2
  · rw [exec_loadForm hp]
    exact runNode_error ((loadNode_memory hms hx).trans (Exec.bind_of_error (loadBytes_out hk hin hout)))
  · rw [exec_storeForm hp]
    exact runNode_error ((storeNode_memory hms hx hv).trans (Exec.bind_of_error (storeBytes_out hk hin hout)))

end Sys2Proof.Machine
end

section
/-! Constant sharing (41_emitter_driver.md R203): the memo table answers by the first pair of a key, and a constant asked for stands
in the table from then on. -/

namespace Sys2Proof.Machine

/-! ### Sequencing -/

@[simp] theorem Emit.bind_apply {α β : Type} (x : Emit α) (f : α → Emit β) (b : Build) :
    (x >>= f) b = match x b with | .ok a u => f a u | .error why u => .error why u := by
  simp only [bind, EStateM.bind]
  cases x b <;> rfl

@[simp] theorem Emit.pure_apply {α : Type} (a : α) (b : Build) : (pure a : Emit α) b = .ok a b := rfl
@[simp] theorem Emit.get_apply (b : Build) : (get : Emit Build) b = .ok b b := rfl
@[simp] theorem modEm_apply (f : Emitter → Emitter) (b : Build) : modEm f b = .ok () { b with em := f b.em } := rfl

/-! ### The memo table -/

/-- Pairs added behind a table answer only the keys it has no answer for. -/
theorem memoFind_append (key : Nat × Nat) (table later : List ((Nat × Nat) × Handle)) :
    memoFind key (table ++ later) = (memoFind key table).or (memoFind key later) := by
  induction table with
  | nil => rfl
  | cons pair rest ih =>
    by_cases hkey : pair.1 = key
    · simp [memoFind, hkey]
    · simp [memoFind, hkey, ih]

@[simp] theorem memoFind_singleton (key : Nat × Nat) (h : Handle) : memoFind key [(key, h)] = some h := if_pos rfl

/-! ### Asking for a constant -/

/-- A constant in the table is answered from it, and nothing is built. -/
theorem constV_of_memoFind {w value : Nat} {b : Build} {h : Handle} (hfind : memoFind (value, w) b.em.memo = some h) :
    constV w value b = .ok { h := h, w := w } b := by
  simp [constV, hfind]

/-- A constant answered was in the table already, or it is one node and one pair more. -/
theorem constV_ok {w value : Nat} {b b' : Build} {v : V} (hconst : constV w value b = .ok v b') :
    v.w = w ∧ (memoFind (value, w) b.em.memo = some v.h ∧ b' = b ∨
      memoFind (value, w) b.em.memo = none ∧
        ∃ u, append (.irConst (BitVec.ofNat 8 w) 0#8 (BitVec.ofNat 32 value)) b = .ok v.h u ∧
          b' = { u with em := { u.em with memo := u.em.memo ++ [((value, w), v.h)] } }) := by
  cases hfind : memoFind (value, w) b.em.memo with
  | some h =>
    rw [constV_of_memoFind hfind] at hconst
    cases hconst
    exact ⟨rfl, .inl ⟨rfl, rfl⟩⟩
  | none =>
    simp only [constV, Emit.bind_apply, Emit.get_apply, hfind] at hconst
    split at hconst
    next h u happ =>
      cases hconst
      exact ⟨rfl, .inr ⟨rfl, u, happ, rfl⟩⟩
    · cases hconst

/-- Shared or new, the constant answered stands in the table afterwards: a new one's key had no pair in front of its own. -/
theorem memoFind_of_constV_ok {w value : Nat} {b b' : Build} {v : V} (hconst : constV w value b = .ok v b') :
    memoFind (value, w) b'.em.memo = some v.h := by
  obtain ⟨-, ⟨hfind, rfl⟩ | ⟨hnone, u, happ, rfl⟩⟩ := constV_ok hconst
  · exact hfind
  · obtain ⟨-, -, -, -, node, -, rfl⟩ := append_ok happ
    simp [memoFind_append, hnone]

/-- Settles O58: the pair the first asking left in the table still answers in the longer one. -/
theorem constantsAreShared : Obligations.ConstantsAreShared := by
  intro w value b b' c v hconst ⟨later, hmemo⟩
  obtain ⟨rfl, -⟩ := constV_ok hconst
  refine constV_of_memoFind ?_
  rw [hmemo, memoFind_append, memoFind_of_constV_ok hconst, Option.some_or]

end Sys2Proof.Machine
end

section
/-! The memory forms and the jumps in full memory (42_addressing.md R240 to R256): each runs its pattern, whose next state
Laws/Meanings.lean gives at the mode's effective address. -/

namespace Sys2Proof.Machine

/-! ### Stores -/

/-- A store pattern completes with the value's low bytes at the effective address. STX and STY under X_flag store the index
register with its high byte cleared, which is the byte an 8-bit store leaves out. -/
theorem Pattern.run_store_full (op : StoreOp) (m : Mode) {s : State} (h : s.fullMemory) :
    (Pattern.store op m).run s =
      .next { s with
        r := s.r.passed (m.length s.cfg.srOffset)
          (m.length s.cfg.srOffset + eaCycles true s.mem s.r m + (op.width s.r).bytes)
        mem := storedAt s.mem (eaOf s.mem s.r m) (op.width s.r) (op.value s.r)
        ending := false } := by
  have hindex (reg : Idx) := storeMem_full widthX (loadIdx reg) m h (fun _ _ => rfl) (fun _ _ => loadIdx_passed _ _ _ _)
  simp only [storedAt_loadIdx] at hindex
  cases op with
  | sta => exact storeMem_full widthA loadA m h (fun _ _ => rfl) (fun _ _ => rfl)
  | stz => exact storeMem_full widthA (fun _ => 0x0000#16) m h (fun _ _ => rfl) (fun _ _ => rfl)
  | stx => exact hindex .x
  | sty => exact hindex .y

/-! ### The parts of a 24-bit jump target (R471) -/

theorem addr_offset_eq (a : Addr) : a.extractLsb' 0 16 = BitVec.ofNat 16 a.toNat := rfl

theorem addr_bank_eq (a : Addr) : a.extractLsb' 16 8 = BitVec.ofNat 8 (a.toNat / 65536) := by
  rw [BitVec.extractLsb', Nat.shiftRight_eq_div_pow]

/-! ### The obligations -/

/-- Settles O14: the form's pattern reads its operand at the mode's effective address. -/
theorem accumulatorMemoryForms : Obligations.AccumulatorMemoryForms := by
  intro op m i s hi hfull
  rw [exec_patternOf (patternOf_aluForm hi)]
  exact aluMem_full op m hfull

/-- Settles O15: the immediate form writes Z alone, a memory form all of `bitEffect`. -/
theorem bitForms : Obligations.BitForms := by
  refine ⟨fun v s => bitImm_eq v s, fun m i s hi hfull => ?_⟩
  rw [exec_patternOf (patternOf_bitForm hi)]
  exact bitMem_full m hfull

/-- Settles O16: whatever it stores, a form runs the store pattern of its mode. -/
theorem storeForms : Obligations.StoreForms := by
  intro op m i s hi hfull
  rw [exec_patternOf (patternOf_storeForm hi)]
  exact Pattern.run_store_full op m hfull

/-- Settles O33: the target is the operand, its two parts, or the pointer's two bytes. -/
theorem jumpInstructions : Obligations.JumpInstructions := by
  refine ⟨fun c a s => ⟨rfl, rfl⟩, fun c a s => ⟨rfl, ?_⟩, fun c a s hfull => ⟨rfl, jumpIndirect_full a hfull⟩⟩
  rw [← addr_offset_eq, ← addr_bank_eq]
  rfl

end Sys2Proof.Machine
end

section
/-! The rules of 43_helpers.md as the guest instructions use them: the immediates, read-modify-writes, index instructions,
transfers, pushes, pulls, calls and returns in full memory, and the status byte in arithmetic. Each instruction runs its pattern,
whose next state Laws/Meanings.lean gives. -/

namespace Sys2Proof.Machine

/-! ### The status byte (R280 to R282) -/

/-- The eight flags fill the byte, so packing loses nothing to its width. -/
theorem packFlags_toNat (r : Regs) :
    (packFlags r).toNat =
      bit r.n * 128 + bit r.v * 64 + bit (r.e || r.m) * 32 + bit (r.e || r.xf) * 16 + bit r.df * 8 + bit r.i * 4 +
        bit r.z * 2 + bit r.c := by
  have hn := bit_le_one r.n
  have hv := bit_le_one r.v
  have hm := bit_le_one (r.e || r.m)
  have hxf := bit_le_one (r.e || r.xf)
  have hdf := bit_le_one r.df
  have hi := bit_le_one r.i
  have hz := bit_le_one r.z
  have hc := bit_le_one r.c
  rw [packFlags, BitVec.toNat_ofNat]
  omega

/-- Unpacking reads the byte's number digit by digit. -/
theorem unpackFlags_eq (p : Byte) (r : Regs) :
    unpackFlags p r =
      { r with
        n := decide (p.toNat / 128 % 2 = 1), v := decide (p.toNat / 64 % 2 = 1)
        m := if r.e then r.m else decide (p.toNat / 32 % 2 = 1)
        xf := if r.e then r.xf else decide (p.toNat / 16 % 2 = 1)
        df := decide (p.toNat / 8 % 2 = 1), i := decide (p.toNat / 4 % 2 = 1)
        z := decide (p.toNat / 2 % 2 = 1), c := decide (p.toNat % 2 = 1) } := by
  simp only [unpackFlags, BitVec.getLsbD, Nat.testBit_eq_decide_div_mod_eq, Nat.reducePow, Nat.div_one]

/-! ### Register results -/

theorem storeS_eq (v : Word16) (r : Regs) :
    storeS v r = { r with s := BitVec.ofNat 16 (if r.e then 256 + v.toNat % 256 else v.toNat) } := by
  rw [storeS, stackLock_eq]

theorem setNZ8_lo8_eq (v : Word16) (r : Regs) : setNZ8 (lo8 v) r = resultNZ .w8 v.toNat r := setNZ_eq .w8 v r

/-! ### Instructions by their pattern -/

theorem patternOf_accForm (op : RmwOp) : patternOf op.accForm = some (.rmwAcc op) := by
  cases op <;> rfl

/-- An implied instruction leaves its register effect one byte and its cycles on. -/
theorem exec_implied {i : Instr} {k : Nat} {f : Regs → Regs} {s : State} {q : Regs}
    (hp : patternOf i = some (.implied k f)) (hf : f (s.r.passed 1 (1 + k)) = q) :
    exec i s = .next { s with r := q, ending := false } := by
  rw [exec_patternOf hp, ← hf]
  exact implied_eq k f s

/-- A pull in full memory, its register effect in any form that agrees with the pattern's. -/
theorem exec_pull_full {i : Instr} {op : PullOp} {f : Word16 → Regs → Regs} {s : State}
    (hp : patternOf i = some (.pull op)) (hf : ∀ v r, op.effect v r = f v r) (hfull : s.fullMemory) :
    exec i s =
      .next { s with
        r := f (pulledValue s.mem s.r.e s.r.s (op.width s.r))
          { s.r.passed 1 (3 + (op.width s.r).bytes) with s := pulledS s.r.e s.r.s (op.width s.r).bytes }
        ending := false } := by
  rw [exec_patternOf hp, ← hf]
  exact pullAt_full op.width op.effect hfull fun n k => op.width_passed n k s.r

/-! ### The obligations -/

/-- Settles O11: each is the immediate form of the accumulator family. -/
theorem logicAndLoadImmediate : Obligations.LogicAndLoadImmediate :=
  fun v s => ⟨aluImm_eq .ora v s, aluImm_eq .and v s, aluImm_eq .eor v s, aluImm_eq .lda v s⟩

/-- Settles O13: CMP is of the accumulator family, CPX and CPY of the index family. -/
theorem compareImmediate : Obligations.CompareImmediate :=
  fun v s => ⟨aluImm_eq .cmp v s, cpIdxImm_eq .x v s, cpIdxImm_eq .y v s⟩

/-- Settles O18: the accumulator form runs the accumulator pattern of its operation. -/
theorem readModifyWriteAccumulator : Obligations.ReadModifyWriteAccumulator := by
  intro op s
  rw [exec_patternOf (patternOf_accForm op)]
  exact rmwAcc_eq op s

/-- Settles O19: the form's pattern reads and writes back at the mode's effective address. -/
theorem readModifyWriteMemory : Obligations.ReadModifyWriteMemory := by
  intro op m i s hi hfull
  rw [exec_patternOf (patternOf_rmwForm hi)]
  exact rmwMem_full op m hfull

/-- Settles O20: the immediate form takes its operand, a memory form the one at the mode's effective address. -/
theorem indexLoads : Obligations.IndexLoads := by
  refine ⟨fun v s => ⟨ldIdxImm_eq .x v s, ldIdxImm_eq .y v s⟩, fun reg m i s hi hfull => ?_⟩
  rw [exec_patternOf (patternOf_ldForm hi)]
  exact ldIdxMem_full reg m hfull

/-- Settles O21: the form's pattern compares with the operand at the mode's effective address. -/
theorem indexComparesWithMemory : Obligations.IndexComparesWithMemory := by
  intro reg m i s hi hfull
  rw [exec_patternOf (patternOf_cpForm hi)]
  exact cpIdxMem_full reg m hfull

/-- Settles O22: one step up adds 1, one step down 65535, which is 1 less at either width. -/
theorem indexIncrementAndDecrement : Obligations.IndexIncrementAndDecrement :=
  fun s => ⟨stepIdx_eq .x true s, stepIdx_eq .y true s, stepIdx_eq .x false s, stepIdx_eq .y false s⟩

/-- Settles O24: S is written under the page lock, the accumulator with both halves forced. -/
theorem transfersOfStackAndDirectPage : Obligations.TransfersOfStackAndDirectPage := by
  intro s r acc toS
  refine ⟨exec_implied rfl ?txs, exec_implied rfl ?tcs, exec_implied rfl ?tsc, exec_implied rfl ?tcd, exec_implied rfl ?tdc⟩
  case txs =>
    rw [storeS_eq, loadIdx_toNat]
    rfl
  case tcs =>
    rw [storeS_eq]
    rfl
  case tsc | tdc =>
    rw [setNZ16_eq, storeA_force_eq]
    rfl
  case tcd =>
    rw [setNZ16_eq, BitVec.ofNat_toNat, BitVec.setWidth_eq]
    rfl

/-- Settles O27: each flag is a binary digit of the byte's number, and what was packed unpacks to itself. -/
theorem processorStatusByte : Obligations.ProcessorStatusByte := by
  refine ⟨fun r => ?_, unpackFlags_eq, fun r _ => unpackFlags_packFlags r⟩
  simp only [packFlags_toNat, Bool.if_true_left, Bool.decide_eq_true]

/-- Settles O28: the bytes of a form's value are those its pattern pushes. -/
theorem pushInstructions : Obligations.PushInstructions := by
  intro p hp s hfull w
  obtain ⟨op, hpattern, hwidth, hbytes⟩ := patternOf_pushForm hp
  rw [exec_patternOf hpattern, ← hbytes s.r]
  simp only [w, ← hwidth]
  exact pushAt_full op.width op.value hfull (fun n k => op.width_passed n k s.r) (fun n k => op.value_passed n k s.r)

/-- Settles O29: memory is what the push leaves, and a push leaves the bytes of its value. -/
theorem pushesTouchOnlyTheirBytes : Obligations.PushesTouchOnlyTheirBytes := by
  intro p hp s t hfull h w v
  cases (pushInstructions p hp s hfull).symm.trans h
  exact pushedMem_bytes s.mem s.r.e s.r.s w v

/-- Settles O30: PLA has its own meaning, the others run the pull pattern with their register effect. -/
theorem pullInstructions : Obligations.PullInstructions := by
  intro p hp s hfull
  fin_cases hp
  · exact execPla_full hfull
  · exact exec_pull_full (op := .x) rfl (setIdx_eq .x) hfull
  · exact exec_pull_full (op := .y) rfl (setIdx_eq .y) hfull
  · exact exec_pull_full (op := .p) rfl (fun _ _ => rfl) hfull
  · exact exec_pull_full (op := .d) rfl (fun v _ => setNZ16_eq v _) hfull
  · exact exec_pull_full (op := .b) rfl (fun v _ => setNZ8_lo8_eq v _) hfull

/-- Settles O34: the two bytes of the return offset are a 16-bit push. -/
theorem jumpToSubroutine : Obligations.JumpToSubroutine := by
  intro c a s hfull ret mem
  obtain ⟨-, hbytes, hframe⟩ := pushedMem_bytes s.mem s.r.e s.r.s .w16 ret
  obtain ⟨hhigh, hlow⟩ := hbytes rfl
  exact ⟨rfl, callSubroutine_full a hfull, hhigh, hlow, hframe⟩

/-- Settles O35: RTS pulls one 16-bit value, RTI a byte, a 16-bit value and, if E is clear, a byte more. -/
theorem returnInstructions : Obligations.ReturnInstructions := by
  intro s hfull pulled
  exact ⟨returnSubroutine_full hfull, returnInterrupt_full hfull⟩

end Sys2Proof.Machine
end

section
/-! The transfer and flag instructions of 47_transfer_flag.md. Each runs the implied pattern, so its next state is its register
effect after the opcode byte and its cycles, in the arithmetic of Laws/Numbers.lean. -/

namespace Sys2Proof.Machine

/-! ### Register effects -/

/-- A transfer to an index register: the destination's width cuts the value and sets N and Z. -/
theorem exec_setIdx {i : Instr} {reg : Idx} {v : Regs → Word16} {s : State} {n : Nat}
    (hp : patternOf i = some (.implied 1 fun r => setIdx reg (v r) r)) (hv : (v (s.r.passed 1 2)).toNat = n) :
    exec i s =
      .next { s with
        r := resultNZ (widthX s.r) n (resultIdx reg (widthX s.r) n (s.r.passed 1 2)), ending := false } := by
  refine exec_implied hp ?_
  rw [setIdx_eq, hv, widthX_passed]

/-- A transfer to the accumulator: the destination's width cuts the value and sets N and Z. -/
theorem exec_storeResultA {i : Instr} {v : Regs → Word16} {s : State} {n : Nat}
    (hp : patternOf i = some (.implied 1 fun r => storeResultA (v r) r)) (hv : (v (s.r.passed 1 2)).toNat = n) :
    exec i s =
      .next { s with
        r := resultNZ (widthA s.r) n (resultA (widthA s.r) n (s.r.passed 1 2)), ending := false } := by
  refine exec_implied hp ?_
  rw [storeResultA_eq, hv, widthA_passed]

theorem loadIdx_passed_toNat (reg : Idx) (k q : Nat) (r : Regs) :
    (loadIdx reg (r.passed k q)).toNat = (widthX r).num (reg.raw r) := by
  rw [loadIdx_passed, loadIdx_toNat]

/-- Only the carry that becomes E can force M, X_flag and the stack page. -/
theorem exchangeCE_eq (r : Regs) :
    exchangeCE r =
      { r with
        c := r.e, e := r.c
        m := if r.c then true else r.m, xf := if r.c then true else r.xf
        s := if r.c then BitVec.ofNat 16 (256 + r.s.toNat % 256) else r.s } := by
  cases hc : r.c
  · simp [exchangeCE, hc, stackLock]
  · simp [exchangeCE, hc, stackLock_eq]

/-! ### The obligations -/

/-- Settles O23: the source is read at its own width, the write is a transfer to the index registers or the accumulator. -/
theorem transfersBetweenAccumulatorAndIndex : Obligations.TransfersBetweenAccumulatorAndIndex := by
  intro s wA wX r toIdx toA
  refine ⟨exec_setIdx rfl ?tax, exec_setIdx rfl ?tay, exec_storeResultA rfl ?txa, exec_storeResultA rfl ?tya,
    exec_setIdx rfl ?txy, exec_setIdx rfl ?tyx, exec_setIdx rfl ?tsx⟩
  case tax | tay => exact congrArg BitVec.toNat (loadA_passed 1 2 s.r)
  case txa | txy => exact loadIdx_passed_toNat .x 1 2 s.r
  case tya | tyx => exact loadIdx_passed_toNat .y 1 2 s.r
  case tsx => exact congrArg BitVec.toNat (Regs.passed_s 1 2 s.r)

/-- Settles O25: N and Z are those of the byte that becomes A; XCE's effect splits on the carry. -/
theorem exchangeInstructions : Obligations.ExchangeInstructions :=
  fun _ => ⟨exec_implied rfl (setNZ8_eq _ _), exec_implied rfl (exchangeCE_eq _)⟩

/-- Settles O26: each is implied with one cycle beside the fetch, and its register effect is the flag it writes. -/
theorem flagInstructionsAndNop : Obligations.FlagInstructionsAndNop := by
  intro c s r done
  exact ⟨exec_implied rfl rfl, rfl, exec_implied rfl rfl, rfl, exec_implied rfl rfl, rfl, exec_implied rfl rfl, rfl,
    exec_implied rfl rfl, rfl, exec_implied rfl rfl, rfl, exec_implied rfl rfl, rfl, exec_implied rfl rfl, rfl⟩

end Sys2Proof.Machine
end

section
/-! The control transfers of 49_control.md: the return after a call, the branches, and the rule of which instructions end the
block. -/

namespace Sys2Proof.Machine

/-! ### Pulls after pushes (R288 to R290) -/

/-- A pull steps S back over the last push. -/
theorem stackLock_pushedS_succ {e : Bool} {sp : Word16} (h : e = true → hi8 sp = 0x01#8) (k : Nat) :
    stackLock e (pushedS e sp (k + 1) + 1#16) = pushedS e sp k := by
  induction k generalizing sp with
  | zero => exact stackLock_sub_add h
  | succ k ih => exact ih fun he => hi8_stackLock he _

/-- `j` pulls undo the last `j` of `k + j` pushes. -/
theorem pulledS_pushedS {e : Bool} {sp : Word16} (h : e = true → hi8 sp = 0x01#8) (k j : Nat) :
    pulledS e (pushedS e sp (k + j)) j = pushedS e sp k := by
  induction j with
  | zero => rfl
  | succ j ih => rw [← ih, pulledS, ← Nat.add_assoc, stackLock_pushedS_succ h]

/-- The two pulls of a return read the offset a call has pushed (R473, R474). -/
theorem pulledBytes_pushedMem {e : Bool} {sp : Word16} (h : e = true → hi8 sp = 0x01#8) (mem : Memory) (v : Word16) :
    pulledByte (pushedMem mem e sp [hi8 v, lo8 v]) e (pushedS e sp 2) 1 = lo8 v ∧
    pulledByte (pushedMem mem e sp [hi8 v, lo8 v]) e (pushedS e sp 2) 2 = hi8 v := by
  obtain ⟨-, hbytes, -⟩ := pushedMem_bytes mem e sp .w16 v
  obtain ⟨hhigh, hlow⟩ := hbytes rfl
  have hfirst : pulledS e (pushedS e sp 2) 1 = pushedS e sp 1 := pulledS_pushedS h 1 1
  have hsecond : pulledS e (pushedS e sp 2) 2 = sp := pulledS_pushedS h 0 2
  rw [pulledByte, pulledByte, hfirst, hsecond]
  exact ⟨hlow, hhigh⟩

/-! ### Branches and the block's end -/

theorem patternOf_branchForm {p : (Byte → Instr) × Byte × (Regs → Bool)} (hp : p ∈ branchForms) :
    ∃ cond : Cond, cond.holds = p.2.2 ∧ ∀ d, patternOf (p.1 d) = some (.branch cond d) := by
  fin_cases hp
  · exact ⟨.pl, rfl, fun _ => rfl⟩
  · exact ⟨.mi, rfl, fun _ => rfl⟩
  · exact ⟨.vc, rfl, fun _ => rfl⟩
  · exact ⟨.vs, rfl, fun _ => rfl⟩
  · exact ⟨.always, rfl, fun _ => rfl⟩
  · exact ⟨.cc, rfl, fun _ => rfl⟩
  · exact ⟨.cs, rfl, fun _ => rfl⟩
  · exact ⟨.ne, rfl, fun _ => rfl⟩
  · exact ⟨.eq, rfl, fun _ => rfl⟩

theorem encode_branchForm {p : (Byte → Instr) × Byte × (Regs → Bool)} (hp : p ∈ branchForms) (c : Ctx) (d : Byte) :
    encode c (p.1 d) = .guest [p.2.1, d] := by
  fin_cases hp <;> rfl

theorem Cond.holds_passed (cond : Cond) (n k : Nat) (r : Regs) : cond.holds (r.passed n k) = cond.holds r := by
  cases cond <;> rfl

/-- The instructions listed as control transfers are those whose pattern ends the block. -/
theorem isTransfer_eq_ends {i : Instr} {p : Pattern} (hp : patternOf i = some p) : isTransfer i = p.ends := by
  cases i <;> cases hp <;> rfl

/-! ### The obligations -/

/-- Settles O36: the return pulls the offset of the call's last byte and adds one, and S steps back over both pushes. -/
theorem callThenReturnComesBack : Obligations.CallThenReturnComesBack := by
  intro a s hfull hlock
  refine ⟨_, _, callSubroutine_full a hfull, returnSubroutine_full hfull, ?_⟩
  have hpage := fun he => (emulationLock_iff.mp hlock he).2.2
  obtain ⟨hlow, hhigh⟩ := pulledBytes_pushedMem hpage s.mem (s.r.pc + 2#16)
  have hS : pulledS s.r.e (pushedS s.r.e s.r.s 2) 2 = s.r.s := pulledS_pushedS hpage 0 2
  simp only [Regs.passed_e, hlow, hhigh, hS, cat16_halves]
  simp [Regs.passed, BitVec.add_assoc]

/-- Settles O37: every form runs the branch pattern of its condition. -/
theorem branchInstructions : Obligations.BranchInstructions := by
  intro p hp c d s
  refine ⟨encode_branchForm hp c d, ?_⟩
  obtain ⟨cond, hcond, hpattern⟩ := patternOf_branchForm hp
  rw [exec_patternOf (hpattern d), ← hcond]
  exact branch_eq cond.holds d s fun n k => cond.holds_passed n k s.r

/-- Settles O41: a guest instruction that goes on leaves `ending` as its pattern says. -/
theorem onlyTransfersEndTheBlock : Obligations.OnlyTransfersEndTheBlock := by
  intro i s t hi h
  obtain ⟨p, hp, rfl⟩ := exec_guest_next hi h
  exact (isTransfer_eq_ends hp).symm

end Sys2Proof.Machine
end
